-- ==== Sys2Proof/Word.lean ====
section
/-!
DEFINITION. The words of the part: bytes, 16-bit words, and the numbers by which the spec names things (00_scope.md 0.5.1).
-/

namespace Sys2Proof

/-- One byte of a frame (R158). -/
abbrev Byte := BitVec 8

/-- A revision, a digest or a frame check: two bytes, high byte first (R160). -/
abbrev Word := BitVec 16

/-- One 16-bit linear sample in two's complement (chapter 7.1). -/
abbrev Sample := BitVec 16

/-- Radio port number 0..23. -/
abbrev PortNo := Fin 24

/-- Patch group number 0..11. -/
abbrev GroupNo := Fin 12

/-- Controller, controller port and console number 0..5: the three share one number (0.5.1). -/
abbrev CtlNo := Fin 6

/-- Preset slot number 0..15. -/
abbrev SlotNo := Fin 16

/-- TDM slot number 0..29: radio port p uses slot p, console c slot 24 + c. -/
abbrev TdmSlot := Fin 30

/-- A timer: stopped (none), or running with the time that remains, in TDM frames of 125 µs. -/
abbrev Timer := Option Nat

end Sys2Proof
end

