-- ==== Sys2Proof/Syntax.lean ====
section
/-!
DEFINITION. The commands of the part: one constructor for each row of spec/opcode_table.json, in the table's order.
A request row is the take of the frame at the head of port c's request buffer (R135), so its operands stand in that frame.
-/

namespace Sys2Proof

/-- What a radio port's module and lines give the part in one TDM frame (R1, R2, R109): the levels of the two input
lines, the presence of the valid qualifier, and what the slot's data lines carry. -/
structure RxSlot where
  carrierHigh : Bool
  emergencyHigh : Bool
  valid : Bool
  data : Sample
  deriving DecidableEq, Repr

/-- The two moments of a cycle's direction byte (R132): the select, at which the status byte is built, and the completion
of the byte. A completion with no select before it begins its cycle itself. -/
inductive DirectionPart where
  | select
  | complete (code : Byte)
  deriving DecidableEq, Repr

/-- The commands. -/
inductive Instr where
  | deviceReset
  | startUpLoadCompletion
  | portResetAsserted (c : CtlNo)
  | portResetReleased (c : CtlNo)
  | directionByte (c : CtlNo) (part : DirectionPart)
  /-- `bytes` arrive at port c in its WRITE cycle, the last of them the last byte of the frame (R134). Fewer bytes leave the
  frame in progress. -/
  | frameCompletion (c : CtlNo) (bytes : List Byte)
  | linkCycleEnd (c : CtlNo)
  | removal (c : CtlNo)
  | unknownKind (c : CtlNo)
  | attach (c : CtlNo)
  | detach (c : CtlNo)
  | noticeMask (c : CtlNo)
  | groupRead (c : CtlNo)
  | groupAdd (c : CtlNo)
  | groupRemove (c : CtlNo)
  | groupSet (c : CtlNo)
  | groupDisband (c : CtlNo)
  | groupDigest (c : CtlNo)
  | hold (c : CtlNo)
  | release (c : CtlNo)
  | portRead (c : CtlNo)
  | portSet (c : CtlNo)
  | portClear (c : CtlNo)
  | portGive (c : CtlNo)
  | portClaim (c : CtlNo)
  | consoleSet (c : CtlNo)
  | talkRequest (c : CtlNo)
  | talkStart (c : CtlNo)
  | talkEnd (c : CtlNo)
  | talkCancel (c : CtlNo)
  | floorClear (c : CtlNo)
  | presetStore (c : CtlNo)
  | presetStoreCompletion
  | portsStore (c : CtlNo)
  | portsStoreCompletion
  | presetErase (c : CtlNo)
  | presetEraseCompletion
  | presetRead (c : CtlNo)
  | presetReadCompletion
  | presetRecall (c : CtlNo)
  | presetRecallCompletion
  | emergencyStatusAsserted (p : PortNo)
  | emergencyStatusReleased (p : PortNo)
  | linkLoss (p : PortNo)
  | linkReturn (p : PortNo)
  | restartTimerExpiry (p : PortNo)
  | restartPulseEnd (p : PortNo)
  | guardEnd (p : PortNo)
  | qualifiedCarrierYes (p : PortNo)
  | qualifiedCarrierNo (p : PortNo)
  | levelBlockEnd
  | tdmFrame (rx : Vector RxSlot 24) (mics : Vector Sample 6)
  | transmitLimitExpiry (p : PortNo)
  | carrierLimitExpiry (p : PortNo)
  | cooldownExpiry (p : PortNo)
  | hangTimerExpiry (g : GroupNo)
  | grantWindowExpiry (g : GroupNo)
  | preemptTimerExpiry (g : GroupNo)
  | dissolveTimerExpiry (g : GroupNo)
  | holdTimerExpiry (g : GroupNo)
  deriving DecidableEq, Repr

end Sys2Proof
end

