-- ==== Sys2Proof/Config.lean ====
section
/-!
DEFINITION. The capacities and fixed values of the part (00_scope.md 0.7).
Times are in TDM frames: the bus runs at 8000 frames a second, so one millisecond is 8 frames (the spec's own pairs: 20 ms is 160 frames, 10 ms is 80).
The spec leaves no value undefined after a command, so there is no free value here.
-/

namespace Sys2Proof.Config

/-- Frames in `n` milliseconds. -/
def ms (n : Nat) : Nat := 8 * n

/-- Frames in `n` seconds. -/
def sec (n : Nat) : Nat := 8000 * n

/-- Frames without the qualifier that lose a link (R6). -/
def linkDownFrames : Nat := 160

/-- Frames with the qualifier that return a link (R7). -/
def linkUpFrames : Nat := 100

/-- Frames of one level of the emergency input that change the emergency status (R2). -/
def emergencyFrames : Nat := 160

/-- Frames of a level block, 10 ms (R113). -/
def levelBlockFrames : Nat := 80

/-- Hold time, 30 s (R58). -/
def holdTime : Nat := sec 30

/-- Outbound queue capacity of a controller port (R131). -/
def outboundCapacity : Nat := 16

/-- Request buffer capacity of a controller port (R131). -/
def requestCapacity : Nat := 2

/-- Smallest and largest declared length of a request frame (R134). -/
def minFrame : Nat := 5
def maxFrame : Nat := 96

/-- Duration of a store write, erase and read (R119). -/
def writeTime : Nat := ms 60
def eraseTime : Nat := ms 30
def readTime : Nat := ms 5

/-- Bound of the start-up load (R129). -/
def loadBound : Nat := ms 50

end Sys2Proof.Config
end

