-- ==== Sys2Proof/Machine/State.lean ====
section
/-!
DEFINITION. The state of the part as plain data, every piece of it the spec names, and its values after a device reset.
-/

namespace Sys2Proof.Machine

/-! Names of the part's states, settings, statuses and causes. -/

/-- Class of a source (R3, R71, R92). -/
inductive SrcClass where
  | high | low
  deriving DecidableEq, Repr

inductive Duplex where
  | half | full
  deriving DecidableEq, Repr

inductive DetectSource where
  | line | level | either
  deriving DecidableEq, Repr

/-- Line polarity, of a radio port's carrier-detect line and of a controller port's lines. -/
inductive Polarity where
  | activeHigh | activeLow
  deriving DecidableEq, Repr

inductive LimitAction where
  | restore | latch
  deriving DecidableEq, Repr

/-- Carrier notice trigger NONE, ON, OFF, BOTH (R15). -/
inductive Trigger where
  | never | on | off | both
  deriving DecidableEq, Repr

inductive PortState where
  | offline | idle | keyed | source | cooldown | latched
  deriving DecidableEq, Repr

inductive RestartPhase where
  | stopped | waiting | pulsing
  deriving DecidableEq, Repr

inductive FloorState where
  | free | pending | talk | hang
  deriving DecidableEq, Repr

/-- A party that may claim the floor: a radio port or a console. -/
inductive Source where
  | port (p : PortNo)
  | console (c : CtlNo)
  deriving DecidableEq, Repr

/-- Floor involvement of a console (R71). -/
inductive Involvement where
  | none
  | holder (g : GroupNo)
  | waiter (g : GroupNo)
  deriving DecidableEq, Repr

inductive AttnMode where
  | single | dual
  deriving DecidableEq, Repr

/-- The nine notice kinds, in the order of their codes (R159). -/
inductive NoticeKind where
  | floor | grant | lapse | layout | holdEnd | port | carrier | controller | lost
  deriving DecidableEq, Repr

/-- Causes of a FLOOR notice (R89), in the order of their codes (R166). -/
inductive FloorCause where
  | granted | resumed | started | ended | hangExpired | lapsed | sourceLost | removed | portReset | cleared | layout
  | preempted | emergency
  deriving DecidableEq, Repr

/-- Causes of a LAPSE notice (R90). -/
inductive LapseCause where
  | window | cancelled | preempted | cleared | layout
  deriving DecidableEq, Repr

/-- Causes of a LAYOUT notice (R151). -/
inductive LayoutCause where
  | request | moved | dissolve | recall
  deriving DecidableEq, Repr

/-- The one cause of a HOLD-END notice (R152). -/
inductive HoldEndCause where
  | timeout
  deriving DecidableEq, Repr

/-- Causes of a PORT notice (R154), in the order of their codes. -/
inductive PortCause where
  | txLimit | carrierLimit | cooldownEnd | cleared | linkDown | linkUp | restart | preempted
  deriving DecidableEq, Repr

/-- A notice with the fields fixed at its generation (R148, R166). -/
inductive Notice where
  | floor (g : GroupNo) (state : FloorState) (holder : Option Source) (mark : Bool) (cause : FloorCause)
  | grant (g : GroupNo)
  | lapse (g : GroupNo) (cause : LapseCause)
  | layout (g : GroupNo) (revision : Word) (cause : LayoutCause)
  | holdEnd (g : GroupNo) (cause : HoldEndCause)
  | port (p : PortNo) (state : PortState) (cause : PortCause)
  | carrier (p : PortNo) (on : Bool) (level : Nat)
  | controller (c : CtlNo) (joined : Bool)
  | lost
  deriving DecidableEq, Repr

/-- The fifteen statuses, in the order of their codes (0.5.5, R159). -/
inductive Status where
  | ok | busy | stale | held | notOwner | notMember | badValue | noSuch | state | consoleBusy | detached | starting
  | unknownKind | frameCheck | length
  deriving DecidableEq, Repr

/-! The radio ports. -/

/-- The settings of a port record (R3). -/
structure PortSettings where
  owner : CtlNo
  srcClass : SrcClass
  duplex : Duplex
  detect : DetectSource
  polarity : Polarity
  attack : Fin 5
  release : Fin 5
  openThreshold : Nat
  closeThreshold : Nat
  tailGuard : Nat
  transmitLimit : Nat
  carrierLimit : Nat
  limitAction : LimitAction
  cooldown : Fin 5
  restartTimeout : Fin 6
  restartPulse : Nat
  trigger : Trigger
  deriving DecidableEq, Repr

/-- The port that owns radio port `p` by default: the port number divided by 4, rounded down (R3). -/
def defaultOwner (p : PortNo) : CtlNo := ⟨p.val / 4, by omega⟩

/-- The defaults of R3. -/
def PortSettings.default (p : PortNo) : PortSettings where
  owner := defaultOwner p
  srcClass := .high
  duplex := .half
  detect := .line
  polarity := .activeHigh
  attack := 1
  release := 4
  openThreshold := 40
  closeThreshold := 34
  tailGuard := 4
  transmitLimit := 12
  carrierLimit := 18
  limitAction := .restore
  cooldown := 2
  restartTimeout := 0
  restartPulse := 5
  trigger := .never

/-- One port record (R3, R4, R8, R10, R12, R24). -/
structure PortRec where
  settings : PortSettings
  state : PortState
  linkUp : Bool
  linkCount : Nat
  restartPhase : RestartPhase
  restartTimer : Timer
  carrier : Bool
  runCount : Nat
  /-- The attack or release time of the run, in frames, read at its start (R10). -/
  runLength : Nat
  hysteresis : Bool
  rawLevel : Nat
  /-- The tail guard: active while it runs (R12). -/
  guard : Timer
  emergency : Bool
  emergencyCount : Nat
  transmitTimer : Timer
  carrierTimer : Timer
  cooldownTimer : Timer
  deriving DecidableEq, Repr

/-- A port record after a device reset (R3, R4, R24). -/
def PortRec.reset (p : PortNo) : PortRec where
  settings := PortSettings.default p
  state := .offline
  linkUp := false
  linkCount := 0
  restartPhase := .stopped
  restartTimer := none
  carrier := false
  runCount := 0
  runLength := 0
  hysteresis := false
  rawLevel := 0
  guard := none
  emergency := false
  emergencyCount := 0
  transmitTimer := none
  carrierTimer := none
  cooldownTimer := none

/-! The patch groups, the floors and the consoles. -/

/-- The four settings of a group (R40). -/
structure GroupSettings where
  hang : Nat
  window : Nat
  preempt : Nat
  dissolve : Nat
  deriving DecidableEq, Repr

/-- The default group settings (R40). -/
def GroupSettings.default : GroupSettings := { hang := 10, window := 3, preempt := 2, dissolve := 0 }

/-- One group record (R37). The layout state follows the member list (R39) and is not stored twice. -/
structure GroupRec where
  members : List PortNo
  revision : Word
  settings : GroupSettings
  holdHolder : Option CtlNo
  holdTimer : Timer
  dissolveTimer : Timer
  deriving DecidableEq, Repr

/-- A group record after a device reset (R37). -/
def GroupRec.reset : GroupRec where
  members := []
  revision := 0
  settings := GroupSettings.default
  holdHolder := none
  holdTimer := none
  dissolveTimer := none

/-- One waiting entry (R92). -/
structure Entry where
  source : Source
  srcClass : SrcClass
  emergency : Bool
  deriving DecidableEq, Repr

/-- One floor record (R70). -/
structure FloorRec where
  state : FloorState
  holder : Option Source
  mark : Bool
  waiting : List Entry
  lowTurn : Nat
  hangTimer : Timer
  windowTimer : Timer
  preemptTimer : Timer
  deriving DecidableEq, Repr

/-- A floor record after a device reset (R70). -/
def FloorRec.reset : FloorRec where
  state := .free
  holder := none
  mark := false
  waiting := []
  lowTurn := 0
  hangTimer := none
  windowTimer := none
  preemptTimer := none

/-- One console: its record in the arbiter (R71) and its monitor set in the audio switch (R114), in increasing order. -/
structure ConsoleRec where
  involvement : Involvement
  srcClass : SrcClass
  monitor : List GroupNo
  deriving DecidableEq, Repr

/-- A console after a device reset (R71, R114). -/
def ConsoleRec.reset : ConsoleRec := { involvement := .none, srcClass := .high, monitor := [] }

/-! The layout store. -/

/-- One group entry of a preset (R118). -/
structure GroupEntry where
  group : GroupNo
  settings : GroupSettings
  members : List PortNo
  deriving DecidableEq, Repr

/-- A preset: an ordered list of group entries (R118). -/
abbrev Preset := List GroupEntry

/-- The kind of the pending operation, with its slot and its snapshot where it has them (R119). -/
inductive StoreKind where
  | presetStore (slot : SlotNo) (snapshot : Preset)
  | portsStore (snapshot : Vector PortSettings 24)
  | presetErase (slot : SlotNo)
  | presetRead (slot : SlotNo)
  | presetRecall (slot : SlotNo)
  | startUpLoad
  deriving DecidableEq, Repr

/-- The pending operation (R119), with the tag its deferred response will carry (R137). -/
structure StoreOp where
  kind : StoreKind
  requester : Option CtlNo
  responseWanted : Bool
  tag : Byte
  timeLeft : Timer
  deriving DecidableEq, Repr

/-- The start-up load as pending operation (R119, R129): its time is the bound of R129. -/
def StoreOp.load : StoreOp :=
  { kind := .startUpLoad, requester := none, responseWanted := false, tag := 0, timeLeft := some Config.loadBound }

/-! The controller ports. -/

/-- One outbound entry: a response with the request's kind and tag, its status and its data (R137), or a notice. -/
inductive OutEntry where
  | response (kind tag : Byte) (status : Status) (data : List Byte)
  | notice (n : Notice)
  deriving DecidableEq, Repr

/-- How far the present link cycle has come (R132, R134, R138). -/
inductive Cycle where
  /-- Not selected: no cycle. -/
  | closed
  /-- The direction byte is being shifted in. -/
  | direction
  /-- A WRITE cycle whose frame has not ended. -/
  | write
  /-- A READ cycle; `entry` says whether the head of the queue is being shifted out, or the empty-frame marker. -/
  | read (entry : Bool)
  /-- Still selected, with nothing served: the rest of a cycle that has ended early or was abandoned is filler, and what arrives
  is ignored. -/
  | ignored
  deriving DecidableEq, Repr

/-- One controller port (R131, R145), with the state of its link cycle. -/
structure CtlPort where
  attached : Bool
  frame : Option (List Byte)
  buffer : List (List Byte)
  outbound : List OutEntry
  reservations : Nat
  lost : Bool
  overrun : Bool
  mode : AttnMode
  polarity : Polarity
  /-- The notice kinds enabled, in the order of their codes. -/
  mask : List NoticeKind
  cycle : Cycle
  /-- The bytes the part offers on the port's data output in the present cycle, from its status byte on; filler follows. -/
  offered : List Byte
  /-- The port-reset line is asserted (R145). -/
  resetLine : Bool
  deriving DecidableEq, Repr

/-- The default notice mask: every kind except CARRIER (R131). -/
def defaultMask : List NoticeKind := [.floor, .grant, .lapse, .layout, .holdEnd, .port, .controller, .lost]

/-- A controller port after a device reset (R131), with its port-reset line released (log entry 12) and not selected (log entry 25). -/
def CtlPort.reset : CtlPort where
  attached := false
  frame := none
  buffer := []
  outbound := []
  reservations := 0
  lost := false
  overrun := false
  mode := .single
  polarity := .activeLow
  mask := defaultMask
  cycle := .closed
  offered := []
  resetLine := false

/-! The whole part. -/

/-- The part: the tables and records of its seven blocks (00_scope.md 0.3; the notice dispatcher holds nothing, R148). -/
structure Part where
  ports : Vector PortRec 24
  groups : Vector GroupRec 12
  floors : Vector FloorRec 12
  consoles : Vector ConsoleRec 6
  /-- The samples taken from the 30 receive slots in the last frame (R108, R109). -/
  taken : Vector Sample 30
  /-- The samples driven into the 30 transmit slots in the last frame (R108). -/
  transmit : Vector Sample 30
  /-- The peak magnitude of each radio slot in the level block so far (R113). -/
  peaks : Vector Nat 24
  /-- The frames of the level block so far (R113). -/
  blockFrames : Nat
  slots : Vector (Option Preset) 16
  portsRecord : Option (Vector PortSettings 24)
  storeOp : Option StoreOp
  ctls : Vector CtlPort 6
  deriving DecidableEq, Repr

/-- The part after a device reset, with nothing in its non-volatile memory and every port-reset line released. -/
def Part.reset : Part where
  ports := Vector.ofFn PortRec.reset
  groups := Vector.replicate 12 GroupRec.reset
  floors := Vector.replicate 12 FloorRec.reset
  consoles := Vector.replicate 6 ConsoleRec.reset
  taken := Vector.replicate 30 0
  transmit := Vector.replicate 30 0
  peaks := Vector.replicate 24 0
  blockFrames := 0
  slots := Vector.replicate 16 none
  portsRecord := none
  storeOp := some StoreOp.load
  ctls := Vector.replicate 6 CtlPort.reset

/-- The state: the part, and the commands that wait, first in, first out. -/
structure State where
  part : Part
  pending : List Instr
  deriving DecidableEq, Repr

/-- A new part right after a device reset: all slots and the port-settings record EMPTY as delivered (R117), the start-up
load running (R129), no command waiting. -/
def State.reset : State := { part := Part.reset, pending := [] }

/-- The reasons for which the part stops with a fault: none. The spec describes no event that stops the part, so this type
has no constructor and no meaning can answer with a fault (safe). -/
inductive Fault where
  deriving DecidableEq, Repr

/-- The reasons for which the model has no meaning for a command. -/
inductive Refusal where
  /-- A command the model does not give a meaning: raised by an arm of `exec` that names the row's mnemonic (safe: nothing
  follows from it). No arm raises it. -/
  | notModelled (mnemonic : String)
  deriving DecidableEq, Repr

end Sys2Proof.Machine
end

