-- ==== Sys2Proof/Machine/Tables.lean ====
section
/-!
DEFINITION. Reading and changing one record of a table of the part. Every read and write of a record goes through these.
-/

namespace Sys2Proof.Machine

/-- Entry `i` of a table. -/
def tget {α : Type} {n : Nat} (t : Vector α n) (i : Fin n) : α := t[i.val]

/-- The table with entry `i` changed by `f`. -/
def tmod {α : Type} {n : Nat} (t : Vector α n) (i : Fin n) (f : α → α) : Vector α n :=
  t.set i.val (f (tget t i)) i.isLt

/-- The table with every entry changed by `f`, which is given the entry's number. -/
def tmap {α β : Type} {n : Nat} (f : Fin n → α → β) (t : Vector α n) : Vector β n :=
  Vector.ofFn fun i => f i (tget t i)

/-- The record of radio port `p`. -/
def Part.port (d : Part) (p : PortNo) : PortRec := tget d.ports p

/-- The record of group `g`. -/
def Part.group (d : Part) (g : GroupNo) : GroupRec := tget d.groups g

/-- The floor record of group `g`. -/
def Part.floor (d : Part) (g : GroupNo) : FloorRec := tget d.floors g

/-- The record of console `c`. -/
def Part.console (d : Part) (c : CtlNo) : ConsoleRec := tget d.consoles c

/-- Controller port `c`. -/
def Part.ctl (d : Part) (c : CtlNo) : CtlPort := tget d.ctls c

def Part.modPort (d : Part) (p : PortNo) (f : PortRec → PortRec) : Part := { d with ports := tmod d.ports p f }
def Part.modGroup (d : Part) (g : GroupNo) (f : GroupRec → GroupRec) : Part := { d with groups := tmod d.groups g f }
def Part.modFloor (d : Part) (g : GroupNo) (f : FloorRec → FloorRec) : Part := { d with floors := tmod d.floors g f }
def Part.modConsole (d : Part) (c : CtlNo) (f : ConsoleRec → ConsoleRec) : Part :=
  { d with consoles := tmod d.consoles c f }
def Part.modCtl (d : Part) (c : CtlNo) (f : CtlPort → CtlPort) : Part := { d with ctls := tmod d.ctls c f }
def Part.setSlot (d : Part) (i : SlotNo) (v : Option Preset) : Part := { d with slots := tmod d.slots i fun _ => v }

/-- Runs a function once for each item of a list, in list order. -/
def Part.each {α : Type} (f : α → Part → Part) : List α → Part → Part
  | [], d => d
  | a :: rest, d => Part.each f rest (f a d)

/-- The outcome of a command: the part as `f` leaves it, the queue untouched. -/
def State.run (s : State) (f : Part → Part) : Host.Outcome State Fault Refusal := .next { s with part := f s.part }

/-- Starts a timer with `n` frames. -/
def startTimer (n : Nat) : Timer := some n

/-- The timer one frame later. -/
def tickTimer (t : Timer) : Timer := t.map (· - 1)

end Sys2Proof.Machine
end

