-- ==== Sys2Proof/Machine/Operands.lean ====
section
/-!
DEFINITION. The bytes of the controller link: codes and encodings of values (R159 to R161), the frame check (R158), request
frames (R134, R162), response and notice frames (R162, R166), and the times that setting codes stand for (R3, R40, R160).
-/

namespace Sys2Proof.Machine

/-! Bytes and words. -/

/-- The byte of a number below 256. -/
def byteOf (n : Nat) : Byte := BitVec.ofNat 8 n

/-- High byte first (R160). -/
def wordBytes (w : Word) : List Byte := [w.extractLsb' 8 8, w.extractLsb' 0 8]

/-- The word of a high and a low byte. -/
def wordOf (hi lo : Byte) : Word := hi ++ lo

/-- A byte read as a number below `n`, or none where it is out of range (R161). -/
def numOf (n : Nat) (b : Byte) : Option (Fin n) := if h : b.toNat < n then some ⟨b.toNat, h⟩ else none

/-- yes/no, on/off, asserted/released, UP/DOWN, running/stopped (R160). -/
def boolByte (b : Bool) : Byte := if b then 1 else 0

/-- The value of a flag parameter: 00h no, 01h yes (R160). -/
def boolOf (b : Byte) : Option Bool := if b = 0 then some false else if b = 1 then some true else none

/-- Parameter byte `i`. -/
def arg (ps : List Byte) (i : Nat) : Byte := ps.getD i 0

/-! The CRC-16 of R55 and R158. -/

/-- One bit into the register, generator x^16 + x^12 + x^5 + 1. -/
def crcBit (r : Word) (b : Bool) : Word := if r.msb != b then (r <<< 1) ^^^ 0x1021#16 else r <<< 1

/-- One byte into the register, most significant bit first. -/
def crcByte (r : Word) (b : Byte) : Word :=
  [7, 6, 5, 4, 3, 2, 1, 0].foldl (fun r i => crcBit r (b.getLsbD i)) r

/-- The CRC of a run of bytes: the register starts at all ones, with no final inversion. -/
def crc (bytes : List Byte) : Word := bytes.foldl crcByte 0xFFFF#16

/-! Codes (R159, R160, R166). -/

/-- The 27 request kinds. -/
inductive ReqKind where
  | attach | detach | noticeMask | groupRead | groupAdd | groupRemove | groupSet | groupDisband | groupDigest | hold
  | release | portRead | portSet | portClear | portGive | portClaim | consoleSet | talkRequest | talkStart | talkEnd
  | talkCancel | floorClear | presetStore | presetRecall | presetErase | presetRead | portsStore
  deriving DecidableEq, Repr

def ReqKind.all : List ReqKind :=
  [.attach, .detach, .noticeMask, .groupRead, .groupAdd, .groupRemove, .groupSet, .groupDisband, .groupDigest, .hold,
   .release, .portRead, .portSet, .portClear, .portGive, .portClaim, .consoleSet, .talkRequest, .talkStart, .talkEnd,
   .talkCancel, .floorClear, .presetStore, .presetRecall, .presetErase, .presetRead, .portsStore]

/-- Kind codes (R159). -/
def ReqKind.code : ReqKind → Byte
  | .attach => 0x01 | .detach => 0x02 | .noticeMask => 0x03
  | .groupRead => 0x10 | .groupAdd => 0x11 | .groupRemove => 0x12 | .groupSet => 0x13 | .groupDisband => 0x14
  | .groupDigest => 0x15 | .hold => 0x16 | .release => 0x17
  | .portRead => 0x20 | .portSet => 0x21 | .portClear => 0x22 | .portGive => 0x23 | .portClaim => 0x24
  | .consoleSet => 0x30 | .talkRequest => 0x31 | .talkStart => 0x32 | .talkEnd => 0x33 | .talkCancel => 0x34
  | .floorClear => 0x35
  | .presetStore => 0x40 | .presetRecall => 0x41 | .presetErase => 0x42 | .presetRead => 0x43 | .portsStore => 0x44

/-- The kind a code names, if it names one. -/
def ReqKind.ofByte (b : Byte) : Option ReqKind := ReqKind.all.find? fun k => k.code = b

def Status.code : Status → Byte
  | .ok => 0x00 | .busy => 0x01 | .stale => 0x02 | .held => 0x03 | .notOwner => 0x04 | .notMember => 0x05
  | .badValue => 0x06 | .noSuch => 0x07 | .state => 0x08 | .consoleBusy => 0x09 | .detached => 0x0A
  | .starting => 0x0B | .unknownKind => 0x0C | .frameCheck => 0x0D | .length => 0x0E

def NoticeKind.all : List NoticeKind :=
  [.floor, .grant, .lapse, .layout, .holdEnd, .port, .carrier, .controller, .lost]

def NoticeKind.code : NoticeKind → Byte
  | .floor => 0x80 | .grant => 0x81 | .lapse => 0x82 | .layout => 0x83 | .holdEnd => 0x84 | .port => 0x85
  | .carrier => 0x86 | .controller => 0x87 | .lost => 0x88

def NoticeKind.ofByte (b : Byte) : Option NoticeKind := NoticeKind.all.find? fun k => k.code = b

def Notice.kind : Notice → NoticeKind
  | .floor .. => .floor | .grant .. => .grant | .lapse .. => .lapse | .layout .. => .layout | .holdEnd .. => .holdEnd
  | .port .. => .port | .carrier .. => .carrier | .controller .. => .controller | .lost => .lost

def SrcClass.code : SrcClass → Byte
  | .high => 0 | .low => 1
def SrcClass.ofByte (b : Byte) : Option SrcClass := if b = 0 then some .high else if b = 1 then some .low else none

def Duplex.code : Duplex → Byte
  | .half => 0 | .full => 1
def Duplex.ofByte (b : Byte) : Option Duplex := if b = 0 then some .half else if b = 1 then some .full else none

def DetectSource.code : DetectSource → Byte
  | .line => 0 | .level => 1 | .either => 2
def DetectSource.ofByte (b : Byte) : Option DetectSource :=
  if b = 0 then some .line else if b = 1 then some .level else if b = 2 then some .either else none

def Polarity.code : Polarity → Byte
  | .activeHigh => 0 | .activeLow => 1
def Polarity.ofByte (b : Byte) : Option Polarity :=
  if b = 0 then some .activeHigh else if b = 1 then some .activeLow else none

def LimitAction.code : LimitAction → Byte
  | .restore => 0 | .latch => 1
def LimitAction.ofByte (b : Byte) : Option LimitAction :=
  if b = 0 then some .restore else if b = 1 then some .latch else none

def Trigger.code : Trigger → Byte
  | .never => 0 | .on => 1 | .off => 2 | .both => 3
def Trigger.ofByte (b : Byte) : Option Trigger :=
  if b = 0 then some .never else if b = 1 then some .on else if b = 2 then some .off else if b = 3 then some .both
  else none

def AttnMode.code : AttnMode → Byte
  | .single => 0 | .dual => 1
def AttnMode.ofByte (b : Byte) : Option AttnMode :=
  if b = 0 then some .single else if b = 1 then some .dual else none

def PortState.code : PortState → Byte
  | .offline => 0 | .idle => 1 | .keyed => 2 | .source => 3 | .cooldown => 4 | .latched => 5

def RestartPhase.code : RestartPhase → Byte
  | .stopped => 0 | .waiting => 1 | .pulsing => 2

def FloorState.code : FloorState → Byte
  | .free => 0 | .pending => 1 | .talk => 2 | .hang => 3

def FloorCause.code : FloorCause → Byte
  | .granted => 0x00 | .resumed => 0x01 | .started => 0x02 | .ended => 0x03 | .hangExpired => 0x04 | .lapsed => 0x05
  | .sourceLost => 0x06 | .removed => 0x07 | .portReset => 0x08 | .cleared => 0x09 | .layout => 0x0A
  | .preempted => 0x0B | .emergency => 0x0C

def LapseCause.code : LapseCause → Byte
  | .window => 0 | .cancelled => 1 | .preempted => 2 | .cleared => 3 | .layout => 4

def LayoutCause.code : LayoutCause → Byte
  | .request => 0 | .moved => 1 | .dissolve => 2 | .recall => 3

def HoldEndCause.code : HoldEndCause → Byte
  | .timeout => 0

def PortCause.code : PortCause → Byte
  | .txLimit => 0 | .carrierLimit => 1 | .cooldownEnd => 2 | .cleared => 3 | .linkDown => 4 | .linkUp => 5
  | .restart => 6 | .preempted => 7

/-- Source: 0..23 a radio port, 24..29 a console (R160). -/
def Source.code : Source → Byte
  | .port p => byteOf p.val
  | .console c => byteOf (24 + c.val)

/-- A field that has no value is written FFh (R161). -/
def noneByte : Byte := 0xFF

def optByte {α : Type} (f : α → Byte) : Option α → Byte
  | none => noneByte
  | some a => f a

def groupByte (g : GroupNo) : Byte := byteOf g.val
def portByte (p : PortNo) : Byte := byteOf p.val
def ctlByte (c : CtlNo) : Byte := byteOf c.val
def slotByte (i : SlotNo) : Byte := byteOf i.val

/-- A waiting entry: source in bits 4..0, class in bit 5, emergency flag in bit 6, bit 7 always 0 (R161, R163). -/
def Entry.byte (e : Entry) : Byte :=
  e.source.code ||| (if e.srcClass = .low then 0x20 else 0) ||| (if e.emergency then 0x40 else 0)

/-! Times of the setting codes (R3, R10, R40). -/

/-- Attack and release times in frames: 0, 20, 40, 80, 160 ms (R10). -/
def filterFrames (code : Fin 5) : Nat :=
  if code = 0 then 0 else if code = 1 then 160 else if code = 2 then 320 else if code = 3 then 640 else 1280

/-- Cooldown: 1, 2, 5, 10, 20 s (R3). -/
def cooldownFrames (code : Fin 5) : Nat :=
  Config.sec (if code = 0 then 1 else if code = 1 then 2 else if code = 2 then 5 else if code = 3 then 10 else 20)

/-- Restart timeout: OFF, 0.5, 1, 2, 5, 10 s (R3). -/
def restartFrames (code : Fin 6) : Option Nat :=
  if code = 0 then none
  else some (Config.ms (if code = 1 then 500 else if code = 2 then 1000 else if code = 3 then 2000
    else if code = 4 then 5000 else 10000))

/-- Restart pulse: 250 + 50 n ms (R3). -/
def pulseFrames (n : Nat) : Nat := Config.ms (250 + 50 * n)

/-- A transmit or carrier limit: 0 is no limit, else n times 10 s (R24). -/
def limitTimer (n : Nat) : Timer := if n = 0 then none else startTimer (Config.sec (10 * n))

/-- Tail guard: n times 50 ms (R3). -/
def guardFrames (n : Nat) : Nat := Config.ms (50 * n)

/-- Hang time: n times 100 ms (R40). -/
def hangFrames (n : Nat) : Nat := Config.ms (100 * n)

/-- Preempt delay: codes 0..4 for 0, 250, 500, 1000, 2000 ms (R40). -/
def preemptFrames (code : Nat) : Nat :=
  Config.ms (if code = 0 then 0 else if code = 1 then 250 else if code = 2 then 500 else if code = 3 then 1000 else 2000)

/-- Dissolve time in minutes (R40). -/
def dissolveFrames (n : Nat) : Nat := Config.sec (60 * n)

/-- The whole seconds that remain, rounded up; 0 when stopped (R44, R163). -/
def secondsLeft : Timer → Nat
  | none => 0
  | some n => (n + 7999) / 8000

/-! Records in frames. -/

/-- The rules on a port record that go beyond one value's range: the thresholds (R3), and the numbers in range. -/
def PortSettings.legal (s : PortSettings) : Bool :=
  decide (1 ≤ s.openThreshold) && decide (s.openThreshold ≤ 63) && decide (s.closeThreshold < s.openThreshold)
    && decide (s.tailGuard ≤ 15) && decide (s.transmitLimit ≤ 60) && decide (s.carrierLimit ≤ 60)
    && decide (s.restartPulse ≤ 15)

/-- Positions 1 to 16 of the port record (R164), as PORT-SET carries them. -/
def PortSettings.bytes (s : PortSettings) : List Byte :=
  [s.srcClass.code, s.duplex.code, s.detect.code, s.polarity.code, byteOf s.attack.val, byteOf s.release.val,
   byteOf s.openThreshold, byteOf s.closeThreshold, byteOf s.tailGuard, byteOf s.transmitLimit, byteOf s.carrierLimit,
   s.limitAction.code, byteOf s.cooldown.val, byteOf s.restartTimeout.val, byteOf s.restartPulse, s.trigger.code]

/-- The settings that sixteen bytes carry, with the owner kept; none where any value is outside its legal range or
combination (R21, R161). -/
def PortSettings.ofBytes (owner : CtlNo) (ps : List Byte) : Option PortSettings := do
  let srcClass ← SrcClass.ofByte (arg ps 0)
  let duplex ← Duplex.ofByte (arg ps 1)
  let detect ← DetectSource.ofByte (arg ps 2)
  let polarity ← Polarity.ofByte (arg ps 3)
  let attack ← numOf 5 (arg ps 4)
  let release ← numOf 5 (arg ps 5)
  let limitAction ← LimitAction.ofByte (arg ps 11)
  let cooldown ← numOf 5 (arg ps 12)
  let restartTimeout ← numOf 6 (arg ps 13)
  let trigger ← Trigger.ofByte (arg ps 15)
  let s : PortSettings :=
    { owner, srcClass, duplex, detect, polarity, attack, release, openThreshold := (arg ps 6).toNat,
      closeThreshold := (arg ps 7).toNat, tailGuard := (arg ps 8).toNat, transmitLimit := (arg ps 9).toNat,
      carrierLimit := (arg ps 10).toNat, limitAction, cooldown, restartTimeout, restartPulse := (arg ps 14).toNat,
      trigger }
  if s.legal then some s else none

/-- Legal group settings (R40). -/
def GroupSettings.legal (s : GroupSettings) : Bool :=
  decide (s.hang ≤ 30) && decide (1 ≤ s.window) && decide (s.window ≤ 10) && decide (s.preempt ≤ 4)
    && decide (s.dissolve ≤ 255)

/-- The four settings as GROUP-SET carries them: hang, window, preempt code, dissolve (R162). -/
def GroupSettings.bytes (s : GroupSettings) : List Byte :=
  [byteOf s.hang, byteOf s.window, byteOf s.preempt, byteOf s.dissolve]

/-- The settings that four bytes carry; none where any is outside its range (R48). -/
def GroupSettings.ofBytes (b0 b1 b2 b3 : Byte) : Option GroupSettings :=
  let s : GroupSettings := { hang := b0.toNat, window := b1.toNat, preempt := b2.toNat, dissolve := b3.toNat }
  if s.legal then some s else none

/-- The items of a list of numbers below `n`, or none where one is out of range. -/
def numsOf (n : Nat) : List Byte → Option (List (Fin n))
  | [] => some []
  | b :: bs =>
    match numOf n b, numsOf n bs with
    | some i, some is => some (i :: is)
    | _, _ => none

/-- The kinds that a list of notice codes names, or none where a code names none. -/
def kindsOf : List Byte → Option (List NoticeKind)
  | [] => some []
  | b :: bs =>
    match NoticeKind.ofByte b, kindsOf bs with
    | some k, some ks => some (k :: ks)
    | _, _ => none

/-- Does a list name no item twice? -/
def distinct {α : Type} [DecidableEq α] : List α → Bool
  | [] => true
  | a :: as => !as.contains a && distinct as

/-- The entry of a preset in a PRESET-READ response: group, hang time in bits 4..0 and preempt code in bits 7..5, grant
window, dissolve time, member count, members (R165). -/
def GroupEntry.bytes (e : GroupEntry) : List Byte :=
  [groupByte e.group, byteOf (e.settings.hang + 32 * e.settings.preempt), byteOf e.settings.window,
   byteOf e.settings.dissolve, byteOf e.members.length] ++ e.members.map portByte

/-- The data of a PRESET-READ response after the slot number (R165). -/
def presetBytes (p : Preset) : List Byte := byteOf p.length :: p.flatMap GroupEntry.bytes

/-! Request frames (R134, R136, R158, R162). -/

/-- Kind code, tag and parameters of a frame. -/
def frameKind (f : List Byte) : Byte := f.getD 1 0
def frameTag (f : List Byte) : Byte := f.getD 2 0
def frameParams (f : List Byte) : List Byte := (f.drop 3).take (f.length - 5)

/-- The check over bytes 0 to L − 3 equals the last two bytes, high byte first (R158). -/
def frameCheckOk (f : List Byte) : Bool := crc (f.take (f.length - 2)) = wordOf (f.getD (f.length - 2) 0) (f.getD (f.length - 1) 0)

/-- The length of a kind with fixed parameters, and for a kind with a list the length that its count field calls for (R162). -/
def ReqKind.frameLength (k : ReqKind) (f : List Byte) : Nat :=
  match k with
  | .attach => 7 | .detach => 5 | .noticeMask => 6 + (f.getD 3 0).toNat
  | .groupRead => 6 | .groupAdd => 9 | .groupRemove => 9 | .groupSet => 12 | .groupDisband => 8 | .groupDigest => 7
  | .hold => 8 | .release => 6
  | .portRead => 6 | .portSet => 22 | .portClear => 6 | .portGive => 7 | .portClaim => 6
  | .consoleSet => 7 + (f.getD 4 0).toNat
  | .talkRequest => 7 | .talkStart => 5 | .talkEnd => 5 | .talkCancel => 5 | .floorClear => 6
  | .presetStore => 7 + (f.getD 4 0).toNat
  | .presetRecall => 6 | .presetErase => 6 | .presetRead => 6 | .portsStore => 5

/-- The shortest length of a kind (R136 step 2). -/
def ReqKind.shortest (k : ReqKind) : Nat :=
  match k with
  | .noticeMask => 6
  | .consoleSet => 7
  | .presetStore => 7
  | .attach | .detach | .groupRead | .groupAdd | .groupRemove | .groupSet | .groupDisband | .groupDigest | .hold
  | .release | .portRead | .portSet | .portClear | .portGive | .portClaim | .talkRequest | .talkStart | .talkEnd
  | .talkCancel | .floorClear | .presetRecall | .presetErase | .presetRead | .portsStore => 5

/-- Step 2 of the acceptance checks: the declared length fits the kind (R136). -/
def ReqKind.lengthFits (k : ReqKind) (f : List Byte) : Bool :=
  decide (k.shortest ≤ f.length) && decide (f.length = k.frameLength f)

/-- Body and check of a frame the part produces, or of a request as a controller writes it (R158). -/
def sealFrame (content : List Byte) : List Byte :=
  let body := byteOf (content.length + 3) :: content
  body ++ wordBytes (crc body)

/-- A request frame: length, kind code, tag, parameters, check (R158, R162). -/
def requestFrame (k : ReqKind) (tag : Byte) (params : List Byte) : List Byte := sealFrame (k.code :: tag :: params)

/-- The fields of a notice from byte 2 (R166). -/
def Notice.fields : Notice → List Byte
  | .floor g st holder mark cause => [groupByte g, st.code, optByte Source.code holder, boolByte mark, cause.code]
  | .grant g => [groupByte g]
  | .lapse g cause => [groupByte g, cause.code]
  | .layout g rev cause => groupByte g :: (wordBytes rev ++ [cause.code])
  | .holdEnd g cause => [groupByte g, cause.code]
  | .port p st cause => [portByte p, st.code, cause.code]
  | .carrier p on level => [portByte p, boolByte on, byteOf level]
  | .controller c joined => [ctlByte c, boolByte joined]
  | .lost => []

/-- The bytes of an outbound entry (R158, R162, R166). -/
def OutEntry.bytes : OutEntry → List Byte
  | .response kind tag status data => sealFrame (kind :: tag :: status.code :: data)
  | .notice n => sealFrame (n.kind.code :: n.fields)

/-- Direction codes, the empty-frame marker and the filler byte (R167). -/
def writeCode : Byte := 0x3C
def readCode : Byte := 0xC3
def emptyMarker : Byte := 0x00
def filler : Byte := 0xFF

end Sys2Proof.Machine
end

