-- ==== Sys2Proof/Machine/Flags.lean ====
section
/-!
DEFINITION. What is read from the state and not stored twice: output lines, status byte, the suppression, floor test and
dissolve conditions, the group of a port, the layout and store states, the room of a queue, and the recipients of notices.
-/

namespace Sys2Proof.Machine

/-! One radio port. -/

/-- The guard is active while its time runs (R12). -/
def PortRec.guardActive (r : PortRec) : Bool := r.guard.isSome

/-- Qualification is suppressed: HALF and KEYED, out of service, or under the guard (R11). -/
def PortRec.suppressed (r : PortRec) : Bool :=
  (decide (r.settings.duplex = .half) && decide (r.state = .keyed))
    || decide (r.state = .cooldown) || decide (r.state = .latched) || decide (r.state = .offline) || r.guardActive

/-- The key output is asserted exactly in KEYED (R5). -/
def PortRec.keyLine (r : PortRec) : Bool := r.state = .keyed

/-- The restart output is asserted for the duration of a restart pulse (R1, R8). -/
def PortRec.restartLine (r : PortRec) : Bool := r.restartPhase = .pulsing

/-- The carrier-detect sample is at its active level (R1). -/
def PortRec.lineActive (r : PortRec) (high : Bool) : Bool :=
  match r.settings.polarity with
  | .activeHigh => high
  | .activeLow => !high

/-- The raw detect of a frame from the port's detect source (R9). -/
def PortRec.rawDetect (r : PortRec) (high : Bool) : Bool :=
  match r.settings.detect with
  | .line => r.lineActive high
  | .level => r.hysteresis
  | .either => r.lineActive high || r.hysteresis

/-- The debounce count has reached 20 ms of samples opposite to the emergency status (R2). -/
def PortRec.emergencyDue (r : PortRec) : Bool := Config.emergencyFrames ≤ r.emergencyCount

/-- The link monitor's count has reached the frames that lose an UP link, or return a DOWN one (R6, R7). -/
def PortRec.linkDue (r : PortRec) : Bool :=
  if r.linkUp then Config.linkDownFrames ≤ r.linkCount else Config.linkUpFrames ≤ r.linkCount

/-- A run of the filter has reached the time that was read at its start (R10). -/
def PortRec.runDue (r : PortRec) : Bool := decide (r.runCount ≠ 0) && decide (r.runLength ≤ r.runCount)

/-- Does the trigger give a notice on a change of the carrier to `on` (R15)? -/
def Trigger.allows (t : Trigger) (on : Bool) : Bool :=
  match t with
  | .never => false
  | .on => on
  | .off => !on
  | .both => true

/-! Groups and floors. -/

/-- The layout state: FORMED while the member list holds a port (R39). -/
def GroupRec.formed (r : GroupRec) : Bool := !r.members.isEmpty

/-- The patch table's answer to "which group lists this port as a member" (R4). -/
def Part.groupOf (d : Part) (p : PortNo) : Option GroupNo :=
  (List.finRange 12).find? fun g => (d.group g).members.contains p

/-- The floor test (R5): the port is a member of a group whose floor is not FREE and whose floor holder is not this port. -/
def Part.floorTest (d : Part) (p : PortNo) : Bool :=
  match d.groupOf p with
  | none => false
  | some g => decide ((d.floor g).state ≠ .free) && decide ((d.floor g).holder ≠ some (.port p))

/-- The dissolve condition (R50). -/
def Part.dissolveCondition (d : Part) (g : GroupNo) : Bool :=
  (d.group g).formed && decide ((d.floor g).state = .free) && decide ((d.group g).holdHolder = none)
    && decide ((d.group g).settings.dissolve ≠ 0)

/-- Is the source in the group's waiting list? -/
def FloorRec.waits (f : FloorRec) (src : Source) : Bool := f.waiting.any fun e => e.source = src

/-- Does the list hold an emergency entry, a LOW entry? -/
def hasEmergency (ws : List Entry) : Bool := ws.any fun e => e.emergency
def hasLow (ws : List Entry) : Bool := ws.any fun e => e.srcClass = .low

/-- The group is held by a controller other than `c` (R43 step 2, R61, R62). -/
def GroupRec.heldByOther (r : GroupRec) (c : CtlNo) : Bool :=
  match r.holdHolder with
  | none => false
  | some h => h ≠ c

/-- The group that a controller holds, if it holds one (R56). -/
def Part.heldBy (d : Part) (c : CtlNo) : Option GroupNo :=
  (List.finRange 12).find? fun g => decide ((d.group g).holdHolder = some c)

/-! The store. -/

/-- The five states of the layout store (R119). -/
inductive StoreState where
  | idle | writing | erasing | reading | loading
  deriving DecidableEq, Repr

/-- The state follows from the pending operation (R119). -/
def Part.storeState (d : Part) : StoreState :=
  match d.storeOp with
  | none => .idle
  | some op =>
    match op.kind with
    | .presetStore .. => .writing
    | .portsStore .. => .writing
    | .presetErase .. => .erasing
    | .presetRead .. => .reading
    | .presetRecall .. => .reading
    | .startUpLoad => .loading

/-- The part is starting while the store is in LOADING (R130). -/
def Part.loading (d : Part) : Bool := d.storeState = .loading

/-- The level block holds its 80 frames (R113). -/
def Part.blockDue (d : Part) : Bool := Config.levelBlockFrames ≤ d.blockFrames

/-! One controller port. -/

/-- The free unreserved entries: 16 minus the entries minus the reservations (R131). -/
def CtlPort.free (q : CtlPort) : Nat := Config.outboundCapacity - q.outbound.length - q.reservations

/-- The status byte: buffer field in bits 7..6, queue field in bits 5..1, lost field in bit 0 (R133, R167). -/
def Part.statusByte (d : Part) (c : CtlNo) : Byte :=
  let q := d.ctl c
  byteOf (64 * (if q.overrun then 3 else Config.requestCapacity - q.buffer.length)
    + 2 * (if d.loading then 31 else q.outbound.length) + (if q.lost then 1 else 0))

/-- ATTN is asserted while an ATTACHED port's queue holds an entry (R141). -/
def CtlPort.attn (q : CtlPort) : Bool := q.attached && !q.outbound.isEmpty

/-- RDY is asserted while an ATTACHED port in DUAL mode has a free request buffer entry (R141). -/
def CtlPort.rdy (q : CtlPort) : Bool :=
  q.attached && decide (q.mode = .dual) && decide (q.buffer.length < Config.requestCapacity)

/-- The level of a line of this port, true for high: asserted at the level of the port's polarity (R141). -/
def CtlPort.lineHigh (q : CtlPort) (asserted : Bool) : Bool :=
  match q.polarity with
  | .activeHigh => asserted
  | .activeLow => !asserted

/-- Byte `k` that the part shifts out in the present selection: what it offers, then filler (R138, R167). The output is driven
while the port is selected (11.7), but not while the port-reset line is asserted (R145). -/
def CtlPort.dataOut (q : CtlPort) (k : Nat) : Option Byte :=
  if q.resetLine then none
  else
    match q.cycle with
    | .closed => none
    | .direction | .write | .read _ | .ignored => some (q.offered.getD k filler)

/-! Recipients of notices (R148 to R155), read from the state after the change. -/

def onlyTo (c : CtlNo) : CtlNo → Bool := fun r => r = c

/-- FLOOR: the controllers whose console monitors the group, and its hold holder (R149). -/
def Part.floorRecipients (d : Part) (g : GroupNo) : CtlNo → Bool := fun r =>
  (d.console r).monitor.contains g || decide ((d.group g).holdHolder = some r)

/-- LAYOUT: every attached controller (R151). -/
def Part.layoutRecipients (d : Part) : CtlNo → Bool := fun r => (d.ctl r).attached

/-- PORT: the port's owner, and the hold holder of the port's group (R154). -/
def Part.portRecipients (d : Part) (p : PortNo) : CtlNo → Bool := fun r =>
  decide ((d.port p).settings.owner = r) ||
    match d.groupOf p with
    | none => false
    | some g => decide ((d.group g).holdHolder = some r)

/-- CONTROLLER: every attached controller other than the one it names (R153). -/
def Part.controllerRecipients (d : Part) (c : CtlNo) : CtlNo → Bool := fun r => (d.ctl r).attached && decide (r ≠ c)

end Sys2Proof.Machine
end

