-- ==== Sys2Proof/Machine/Ops.lean ====
section
/-!
DEFINITION. The operations the commands share: what the orders and events do to one port record, the admission of notices,
the taking of requests and their responses, the start and stop of the dissolve timer, and the hold timer's restart.
-/

namespace Sys2Proof.Machine

/-! One port record (R5, R8, R10 to R12, R16 to R19, R24 to R26). -/

/-- The filter restart (R10): the qualified carrier to no, the run count to 0, the level hysteresis to false. -/
def PortRec.filterRestart (r : PortRec) : PortRec := { r with carrier := false, runCount := 0, hysteresis := false }

/-- Suppression starts, lasts or ends with a change of the record (R11): while suppressed the carrier is no and the count 0;
when suppression that was there before the change is gone, the filter restarts. -/
def PortRec.settle (was : Bool) (r : PortRec) : PortRec :=
  if r.suppressed then { r with carrier := false, runCount := 0 } else if was then r.filterRestart else r

/-- A change of the record, with the start or end of suppression it causes. -/
def PortRec.change (f : PortRec → PortRec) (r : PortRec) : PortRec := (f r).settle r.suppressed

/-- The state becomes `st`. The timer of the state entered starts from the full setting, the others are stopped (R24). -/
def PortRec.enter (st : PortState) (r : PortRec) : PortRec :=
  { r with
    state := st
    transmitTimer := if st = .keyed then limitTimer r.settings.transmitLimit else none
    carrierTimer := if st = .source then limitTimer r.settings.carrierLimit else none
    cooldownTimer := if st = .cooldown then startTimer (cooldownFrames r.settings.cooldown) else none }

/-- The guard starts with the tail guard in force; a tail guard of 0 starts none (R12). -/
def PortRec.startGuard (r : PortRec) : PortRec :=
  if r.settings.tailGuard = 0 then r else { r with guard := startTimer (guardFrames r.settings.tailGuard) }

/-- A change of state: a port that leaves KEYED for any state other than SOURCE starts its guard (R12). -/
def PortRec.goTo (st : PortState) (r : PortRec) : PortRec :=
  r.change fun r =>
    let r' := r.enter st
    if r.state = .keyed ∧ st ≠ .source ∧ st ≠ .keyed then r'.startGuard else r'

/-- A key order (R16). -/
def PortRec.key (r : PortRec) : PortRec := if r.state = .idle then r.goTo .keyed else r

/-- An unkey order (R17). -/
def PortRec.unkey (r : PortRec) : PortRec := if r.state = .keyed then r.goTo .idle else r

/-- A grant (R18). -/
def PortRec.grant (r : PortRec) : PortRec := if r.state = .idle ∨ r.state = .keyed then r.goTo .source else r

/-- A preempt order (R18): KEYED, and the filter restarts as a start of suppression. -/
def PortRec.preempt (r : PortRec) : PortRec := if r.state = .source then (r.goTo .keyed).filterRestart else r

/-- A strip order (R88): IDLE with the tail guard. -/
def PortRec.strip (r : PortRec) : PortRec :=
  if r.state = .source then r.change fun r => (r.enter .idle).startGuard else r

/-- Removal from its group (R19): KEYED to IDLE with the guard, SOURCE to IDLE without. -/
def PortRec.removed (r : PortRec) : PortRec :=
  if r.state = .keyed ∨ r.state = .source then r.goTo .idle else r

/-- The end of a talk by the port's own carrier drop (R14). -/
def PortRec.endTalk (r : PortRec) : PortRec := if r.state = .source then r.goTo .idle else r

/-- A limit expiry (R27, R28): out of service by the limit action read now. -/
def PortRec.limitOut (r : PortRec) : PortRec :=
  r.goTo (match r.settings.limitAction with
    | .restore => .cooldown
    | .latch => .latched)

/-- The restart timer starts in WAITING with the timeout in force, or stops if it is OFF (R8). -/
def PortRec.startRestart (r : PortRec) : PortRec :=
  match restartFrames r.settings.restartTimeout with
  | none => { r with restartPhase := .stopped, restartTimer := none }
  | some n => { r with restartPhase := .waiting, restartTimer := startTimer n }

/-- What link loss does to the record (R6): the link DOWN, any state but LATCHED to OFFLINE, the restart timer started. -/
def PortRec.loseLink (r : PortRec) : PortRec :=
  let r := { r with linkUp := false, linkCount := 0 }
  let r := if r.state = .latched ∨ r.state = .offline then r else r.goTo .offline
  r.startRestart

/-- What link return does to the record (R7): the link UP, restart stopped, and from OFFLINE the state of the floor test. -/
def PortRec.returnLink (test : Bool) (r : PortRec) : PortRec :=
  let r := { r with linkUp := true, linkCount := 0, restartPhase := .stopped, restartTimer := none }
  if r.state = .offline then r.goTo (if test then .keyed else .idle) else r

/-- PORT-SET's effect on the record (R21, R8, R10, R11): every setting at once; the filter restarts; a change of duplex acts on
suppression; the restart timeout acts as R8 states. -/
def PortRec.applySettings (s : PortSettings) (r : PortRec) : PortRec :=
  let was := r.settings.restartTimeout
  let r := r.change fun r => { r with settings := s }
  let r := r.filterRestart
  if s.restartTimeout = 0 then
    if r.restartPhase = .waiting then { r with restartPhase := .stopped, restartTimer := none } else r
  else if was = 0 ∧ !r.linkUp ∧ r.restartPhase = .stopped then r.startRestart
  else r

/-! Notices (R139, R148). -/

/-- Admission of one copy at one port (R139): not at a DETACHED port, not if the kind is disabled, dropped with the lost-notice
flag set if no free unreserved entry is there, otherwise appended. -/
def CtlPort.admitNotice (n : Notice) (q : CtlPort) : CtlPort :=
  if !q.attached then q
  else if !(q.mask.contains n.kind || n.kind = .lost) then q
  else if q.free = 0 then { q with lost := true }
  else { q with outbound := q.outbound ++ [.notice n] }

/-- One copy of a notice to each controller of the recipient set (R148). -/
def Part.notify (rc : CtlNo → Bool) (n : Notice) (d : Part) : Part :=
  { d with ctls := tmap (fun c q => if rc c then q.admitNotice n else q) d.ctls }

/-- A FLOOR notice shows the floor as the event leaves it (R89, R149). -/
def Part.floorNotice (g : GroupNo) (cause : FloorCause) (d : Part) : Part :=
  let f := d.floor g
  d.notify (d.floorRecipients g) (.floor g f.state f.holder f.mark cause)

/-- A LAPSE notice for a console that loses its place; a radio port gets none (R90, R150). -/
def Part.lapseNotice (g : GroupNo) (cause : LapseCause) (src : Option Source) (d : Part) : Part :=
  match src with
  | some (.console c) => d.notify (onlyTo c) (.lapse g cause)
  | _ => d

/-- A PORT notice with the state after the event (R154). -/
def Part.portNotice (p : PortNo) (cause : PortCause) (d : Part) : Part :=
  d.notify (d.portRecipients p) (.port p (d.port p).state cause)

/-- A CARRIER notice where the port's trigger allows it (R15, R155). -/
def Part.carrierNotice (p : PortNo) (on : Bool) (d : Part) : Part :=
  let r := d.port p
  if r.settings.trigger.allows on then d.notify (onlyTo r.settings.owner) (.carrier p on r.rawLevel) else d

/-! Taking requests (R135 to R137). -/

/-- What an owner block does with a request: the part it leaves, and the response's status and data, or none where the
response is deferred (R137). -/
structure Reply where
  part : Part
  answer : Option (Status × List Byte)

/-- A refusal, or an answer without data. -/
def reply (st : Status) (d : Part) : Reply := { part := d, answer := some (st, []) }

/-- The OK response with its data. -/
def replyOk (data : List Byte) (d : Part) : Reply := { part := d, answer := some (.ok, data) }

/-- Steps 1 to 5 of the acceptance checks (R136): the status of the first that fails. -/
def Part.refusal (d : Part) (c : CtlNo) (f : List Byte) : Option Status :=
  if !frameCheckOk f then some .frameCheck
  else
    match ReqKind.ofByte (frameKind f) with
    | none => some .unknownKind
    | some k =>
      if !k.lengthFits f then some .length
      else if !(d.ctl c).attached && k ≠ .attach then some .detached
      else if d.loading then some .starting
      else none

/-- The frame that a take at port `c` would take (R135): the oldest of the request buffer, when there is one and a free
unreserved entry for its response. -/
def Part.takeable (d : Part) (c : CtlNo) : Option (List Byte) :=
  match (d.ctl c).buffer with
  | [] => none
  | f :: _ => if (d.ctl c).free = 0 then none else some f

/-- Steps 1 and 2 of a take (R135): the frame leaves the buffer, one free unreserved entry becomes a reservation. -/
def Part.takeFrame (c : CtlNo) (d : Part) : Part :=
  d.modCtl c fun q => { q with buffer := q.buffer.tail, reservations := q.reservations + 1 }

/-- The response fills its reservation and is appended at the tail (R137). -/
def Part.respond (c : CtlNo) (kind tag : Byte) (st : Status) (data : List Byte) (d : Part) : Part :=
  d.modCtl c fun q =>
    { q with reservations := q.reservations - 1, outbound := q.outbound ++ [.response kind tag st data] }

/-- The answer of an owner block as response; a deferred one keeps its reservation (R137). -/
def Part.answer (c : CtlNo) (f : List Byte) (r : Reply) : Part :=
  match r.answer with
  | none => r.part
  | some (st, data) => r.part.respond c (frameKind f) (frameTag f) st data

/-- A request handler: the requester, its frame's tag and parameters, and the part with the frame taken. -/
abbrev Handler := CtlNo → Byte → List Byte → Part → Reply

/-- The take of a request of kind `k` at port `c` (R135): where the frame a take would take is of that kind, it is taken,
checked, and handed to its owner block. Where it is not, this event does not occur and nothing changes. -/
def Part.serve (k : ReqKind) (h : Handler) (c : CtlNo) (d : Part) : Part :=
  match d.takeable c with
  | none => d
  | some f =>
    if ReqKind.ofByte (frameKind f) = some k then
      let d1 := d.takeFrame c
      match d1.refusal c f with
      | some st => d1.respond c (frameKind f) (frameTag f) st []
      | none => Part.answer c f (h c (frameTag f) (frameParams f) d1)
    else d

/-! Dissolve and hold timers. -/

/-- The dissolve timer starts from the full dissolve time when the condition becomes true, runs on while it stays true, and
stops when it becomes false (R50). -/
def Part.refreshDissolve (g : GroupNo) (d : Part) : Part :=
  let on := d.dissolveCondition g
  d.modGroup g fun r =>
    { r with dissolveTimer :=
        if on then
          match r.dissolveTimer with
          | none => startTimer (dissolveFrames r.settings.dissolve)
          | some n => some n
        else none }

/-- A request from the hold holder that names its group restarts the hold timer, before the owner's checks (R64). -/
def Part.touchHold (c : CtlNo) (g : GroupNo) (d : Part) : Part :=
  d.modGroup g fun r => if r.holdHolder = some c then { r with holdTimer := startTimer Config.holdTime } else r

/-- The hold of a group ends: holder none, timer stopped, and the dissolve condition is examined again (R60, R65, R67). -/
def Part.endHold (g : GroupNo) (d : Part) : Part :=
  (d.modGroup g fun r => { r with holdHolder := none, holdTimer := none }).refreshDissolve g

end Sys2Proof.Machine
end

