-- ==== Sys2Proof/Machine/Arbiter.lean ====
section
/-!
DEFINITION. The floor arbiter: sweeps, claims, ends of talk, the grant decision, emergency claims and preemption, clearing
(chapters 5 and 6), as operations that the events of the other files call.
A parameter `own` is the controller whose own TALK-REQUEST is being taken, if any: a grant that its response reports gives
no GRANT notice (R81, R90, R104).
-/

namespace Sys2Proof.Machine

/-! Involvement, holder and sweeps. -/

/-- The involvement of a console becomes `i`; a radio port has none (R71). -/
def Part.involve (src : Source) (i : Involvement) (d : Part) : Part :=
  match src with
  | .console c => d.modConsole c fun r => { r with involvement := i }
  | .port _ => d

/-- The floor holder, if there is one, stops being floor holder. -/
def Part.vacate (g : GroupNo) (d : Part) : Part :=
  let d1 := match (d.floor g).holder with
    | none => d
    | some src => d.involve src .none
  d1.modFloor g fun f => { f with holder := none }

/-- A key order to one member that is not the floor holder (R16, R72). -/
def Part.keyMember (g : GroupNo) (p : PortNo) (d : Part) : Part :=
  if (d.floor g).holder = some (.port p) then d else d.modPort p PortRec.key

/-- The key sweep, in member-list order (R72). -/
def Part.keySweep (g : GroupNo) (d : Part) : Part := Part.each (Part.keyMember g) (d.group g).members d

/-- An unkey order to one port (R17). -/
def Part.unkeyMember (p : PortNo) (d : Part) : Part := d.modPort p PortRec.unkey

/-- The unkey sweep, in member-list order (R72). -/
def Part.unkeySweep (g : GroupNo) (d : Part) : Part := Part.each Part.unkeyMember (d.group g).members d

/-- The floor record of a FREE floor: no holder, no mark, no waiter, every floor timer stopped (R70, R76, R88). -/
def FloorRec.freed : FloorRec := FloorRec.reset

/-- The floor becomes FREE: the holder out, the record freed, the patch table told (R72, R76, R88). -/
def Part.freeFloor (g : GroupNo) (d : Part) : Part :=
  ((d.vacate g).modFloor g fun _ => FloorRec.freed).refreshDissolve g

/-! The waiting list. -/

/-- The list without the source's entry, with what follows for the low-turn count and the preempt timer (R94, R97). -/
def FloorRec.without (src : Source) (f : FloorRec) : FloorRec :=
  let ws := f.waiting.filter fun e => e.source ≠ src
  { f with
    waiting := ws
    lowTurn := if hasLow ws then f.lowTurn else 0
    preemptTimer := if hasEmergency ws then f.preemptTimer else none }

/-- An entry leaves the waiting list (R94). -/
def Part.leaveList (g : GroupNo) (src : Source) (d : Part) : Part :=
  (d.modFloor g (FloorRec.without src)).involve src .none

/-- The port leaves the waiting list if it is in it. -/
def Part.leaveIfWaiting (g : GroupNo) (p : PortNo) (d : Part) : Part :=
  if (d.floor g).waits (.port p) then d.leaveList g (.port p) else d

/-- An entry joins the list at the tail (R92, R93). -/
def Part.joinList (g : GroupNo) (e : Entry) (d : Part) : Part :=
  (d.modFloor g fun f => { f with waiting := f.waiting ++ [e] }).involve e.source (.waiter g)

/-! Grants. -/

/-- The floor record with a radio port as talker, or with a console's pending grant and its fresh window (R73, R77, R81,
R82, R102, R103). -/
def FloorRec.granted (src : Source) (mark : Bool) (window : Nat) (f : FloorRec) : FloorRec :=
  match src with
  | .port _ =>
    { f with state := .talk, holder := some src, mark := mark, hangTimer := none, windowTimer := none,
             preemptTimer := none }
  | .console _ =>
    { f with state := .pending, holder := some src, mark := mark, hangTimer := none,
             windowTimer := startTimer (Config.sec window), preemptTimer := none }

/-- The source becomes floor holder: a previous holder stops being it, a radio port receives its grant, a console's
involvement follows, the key sweep is made, and the patch table is told that the floor is not FREE (R72, R73, R77, R81). -/
def Part.grantTo (g : GroupNo) (src : Source) (mark : Bool) (d : Part) : Part :=
  let d := d.vacate g
  let window := (d.group g).settings.window
  let d := d.modFloor g (FloorRec.granted src mark window)
  let d := match src with
    | .port p => d.modPort p PortRec.grant
    | .console c => d.involve (.console c) (.holder g)
  (d.keySweep g).refreshDissolve g

/-- The parked floor holder takes the floor back: TALK, the hang timer stopped, the mark as claimed, no sweep (R73, R81). -/
def Part.resume (g : GroupNo) (mark : Bool) (d : Part) : Part :=
  d.modFloor g fun f => { f with state := .talk, hangTimer := none, mark := mark }

/-! The grant decision (R95 to R97). -/

def highCount (ws : List Entry) : Nat := ws.countP fun e => e.srcClass = .high

/-- The winner and the low-turn count the decision sets, by the first of the three tiers that applies (R96). -/
def grantDecision (ws : List Entry) (count : Nat) : Option (Entry × Nat) :=
  match ws.find? fun e => e.emergency with
  | some e => some (e, count)
  | none =>
    match ws.find? fun e => e.srcClass = .low with
    | some l =>
      if highCount ws = 0 ∨ highCount ws ≤ count then some (l, 0)
      else (ws.find? fun e => e.srcClass = .high).map fun h => (h, count + 1)
    | none => (ws.find? fun e => e.srcClass = .high).map fun h => (h, count)

/-- The winner leaves the list and is granted; a console winner's controller gets a GRANT notice, unless its own request's
response reports the grant (R77, R90). -/
def Part.grantWinner (g : GroupNo) (own : Option CtlNo) (e : Entry) (count : Nat) (d : Part) : Part :=
  let d := d.modFloor g fun f => { f with lowTurn := count }
  let d := d.leaveList g e.source
  let d := d.grantTo g e.source e.emergency
  match e.source with
  | .port _ => d
  | .console c => if own = some c then d else d.notify (onlyTo c) (.grant g)

/-- The floor passes on (R76): to the winner of the grant decision, or to FREE with the unkey sweep. -/
def Part.passOn (g : GroupNo) (own : Option CtlNo) (d : Part) : Part :=
  let f := d.floor g
  match grantDecision f.waiting f.lowTurn with
  | some (e, count) => d.grantWinner g own e count
  | none => (d.freeFloor g).unkeySweep g

/-! Ends of talk. -/

/-- The mark off and the preempt timer stopped, as every end of a talk does (R74, R78, R80, R86). -/
def FloorRec.talkOver (f : FloorRec) : FloorRec := { f with mark := false, preemptTimer := none }

/-- A normal end of talk (R74): the floor passes on at once for an emergency entry or a hang time of 0, and hangs otherwise. -/
def Part.normalEnd (g : GroupNo) (d : Part) : Part :=
  let d := d.modFloor g FloorRec.talkOver
  let hang := (d.group g).settings.hang
  let d :=
    if hasEmergency (d.floor g).waiting ∨ hang = 0 then (d.vacate g).passOn g none
    else d.modFloor g fun f => { f with state := .hang, hangTimer := startTimer (hangFrames hang) }
  d.floorNotice g .ended

/-- An end with no hang, of a talk, a pending grant or a parked place: the holder out, its timers stopped, the floor passes
on, and a FLOOR notice with the cause (R78, R80, R82, R85, R86). -/
def Part.endNoHang (g : GroupNo) (cause : FloorCause) (d : Part) : Part :=
  let d := (d.vacate g).modFloor g fun f => { f.talkOver with hangTimer := none, windowTimer := none }
  (d.passOn g none).floorNotice g cause

/-- A pending console grant lapses (R82, R85). -/
def Part.lapseGrant (g : GroupNo) (cause : LapseCause) (d : Part) : Part :=
  (d.lapseNotice g cause (d.floor g).holder).endNoHang g .lapsed

/-! Preemption (R102 to R105). -/

/-- The floor holder in TALK is cut: a radio port receives a preempt order and a PORT notice, a console gets a LAPSE notice
(R105 step 1). -/
def Part.cutHolder (g : GroupNo) (d : Part) : Part :=
  match (d.floor g).holder with
  | some (.port p) => (d.modPort p PortRec.preempt).portNotice p .preempted
  | holder => d.lapseNotice g .preempted holder

/-- The cut at the expiry of the preempt timer, or at the claim with a preempt delay of code 0 (R104, R105). -/
def Part.cut (g : GroupNo) (own : Option CtlNo) (d : Part) : Part :=
  let d := d.cutHolder g
  let d := (d.vacate g).modFloor g fun f => { f with preemptTimer := none }
  (d.passOn g own).floorNotice g .preempted

/-- The claimant takes the floor at once from a pending grant or a parked place (R102, R103): its entry leaves the list as a
winner, and it is granted with the mark yes. -/
def Part.handOver (g : GroupNo) (src : Source) (d : Part) : Part :=
  (((d.vacate g).leaveList g src).grantTo g src true).floorNotice g .preempted

/-- An emergency claim whose entry stands in the list meets the floor as it is (R100). -/
def Part.emergencyArrived (g : GroupNo) (src : Source) (own : Option CtlNo) (d : Part) : Part :=
  let f := d.floor g
  match f.state with
  | .free => d
  | .pending => if f.mark then d else (d.lapseNotice g .preempted f.holder).handOver g src
  | .talk =>
    if f.mark ∨ f.preemptTimer.isSome then d
    else if (d.group g).settings.preempt = 0 then d.cut g own
    else d.modFloor g fun f => { f with preemptTimer := startTimer (preemptFrames (d.group g).settings.preempt) }
  | .hang => d.handOver g src

/-- A claim on a busy floor (R93). An emergency claim granted at once passes through the list within the event, which
leaves what R100 states: the list without it. -/
def Part.busyClaim (g : GroupNo) (e : Entry) (own : Option CtlNo) (d : Part) : Part :=
  let d := d.joinList g e
  if e.emergency then d.emergencyArrived g e.source own else d

/-! Claims and reports from the radio side. -/

/-- A claim granted from FREE: grant and FLOOR notice (R73, R81). -/
def Part.grantFromFree (g : GroupNo) (src : Source) (mark : Bool) (d : Part) : Part :=
  (d.grantTo g src mark).floorNotice g .granted

/-- A floor request of a radio port for its group (R73). -/
def Part.floorRequest (g : GroupNo) (p : PortNo) (d : Part) : Part :=
  let r := d.port p
  let f := d.floor g
  if f.state = .free then d.grantFromFree g (.port p) r.emergency
  else if f.state = .hang ∧ f.holder = some (.port p) then
    ((d.resume g r.emergency).modPort p PortRec.grant).floorNotice g .resumed
  else d.busyClaim g { source := .port p, srcClass := r.settings.srcClass, emergency := r.emergency } none

/-- Source lost (R78): the talk of the floor holder ends with no hang. -/
def Part.sourceLost (p : PortNo) (d : Part) : Part :=
  match d.groupOf p with
  | none => d
  | some g => if (d.floor g).holder = some (.port p) then d.endNoHang g .sourceLost else d

/-- Member unavailable (R78): a waiter leaves the list, a parked floor holder's hang ends. -/
def Part.memberUnavailable (p : PortNo) (d : Part) : Part :=
  match d.groupOf p with
  | none => d
  | some g =>
    if (d.floor g).holder = some (.port p) then d.endNoHang g .sourceLost else d.leaveIfWaiting g p

/-- The carrier drop (R14): a talker's talk ends normally, a waiter leaves the list. -/
def Part.carrierDrop (p : PortNo) (d : Part) : Part :=
  if (d.port p).state = .source then
    let d := d.modPort p PortRec.endTalk
    match d.groupOf p with
    | none => d
    | some g => if (d.floor g).holder = some (.port p) then d.normalEnd g else d
  else
    match d.groupOf p with
    | none => d
    | some g => d.leaveIfWaiting g p

/-- The source's entry with the emergency flag yes, in its place (R98). -/
def FloorRec.upgrade (src : Source) (f : FloorRec) : FloorRec :=
  { f with waiting := f.waiting.map fun e => if e.source = src then { e with emergency := true } else e }

/-- The source has an entry whose flag is still no. -/
def FloorRec.waitsRoutine (f : FloorRec) (src : Source) : Bool :=
  f.waiting.any fun e => decide (e.source = src) && !e.emergency

/-- The running talk is marked emergency (R101). -/
def Part.markTalk (g : GroupNo) (d : Part) : Part :=
  if (d.floor g).mark then d
  else (d.modFloor g fun f => { f with mark := true, preemptTimer := none }).floorNotice g .emergency

/-- Emergency raised (R98): a waiter's entry is upgraded, a SOURCE port's talk is marked. -/
def Part.emergencyRaised (p : PortNo) (d : Part) : Part :=
  match d.groupOf p with
  | none => d
  | some g =>
    if (d.floor g).waitsRoutine (.port p) then
      (d.modFloor g (FloorRec.upgrade (.port p))).emergencyArrived g (.port p) none
    else if (d.port p).state = .source ∧ (d.floor g).holder = some (.port p) then d.markTalk g
    else d

/-! The end of a whole floor. -/

/-- Every entry leaves the waiting list: a waiting console's involvement ends with a LAPSE notice (R80, R88). -/
def Part.dropWaiter (g : GroupNo) (cause : LapseCause) (e : Entry) (d : Part) : Part :=
  (d.involve e.source .none).lapseNotice g cause (some e.source)

def Part.dropWaiters (g : GroupNo) (cause : LapseCause) (d : Part) : Part :=
  (Part.each (Part.dropWaiter g cause) (d.floor g).waiting d).modFloor g fun f => { f with waiting := [], lowTurn := 0 }

/-- A FLOOR notice only if the floor was not FREE before (R80, R88). -/
def Part.floorNoticeUnless (wasFree : Bool) (g : GroupNo) (cause : FloorCause) (d : Part) : Part :=
  if wasFree then d else d.floorNotice g cause

/-- The floor of a group that becomes EMPTY ends (R80): no grant decision and no sweep. -/
def Part.emptyFloor (g : GroupNo) (d : Part) : Part :=
  let wasFree : Bool := (d.floor g).state = .free
  let d := d.lapseNotice g .layout (d.floor g).holder
  let d := d.dropWaiters g .layout
  (d.freeFloor g).floorNoticeUnless wasFree g .layout

/-- A radio floor holder in SOURCE is stripped to IDLE with its guard; a parked one stays IDLE (R88 step 2). -/
def Part.stripHolder (g : GroupNo) (d : Part) : Part :=
  match (d.floor g).holder with
  | some (.port p) => d.modPort p PortRec.strip
  | _ => d

/-- Clearing (R88). The floor holder's LAPSE notice comes before the waiters' (R91). -/
def Part.clearFloor (g : GroupNo) (lapse : LapseCause) (cause : FloorCause) (d : Part) : Part :=
  let wasFree : Bool := (d.floor g).state = .free
  let d := d.lapseNotice g lapse (d.floor g).holder
  let d := d.dropWaiters g lapse
  let d := d.stripHolder g
  ((d.freeFloor g).unkeySweep g).floorNoticeUnless wasFree g cause

/-- The end of a console's place by the port reset of its controller (R86). -/
def Part.endConsole (c : CtlNo) (d : Part) : Part :=
  match (d.console c).involvement with
  | .none => d
  | .waiter g => d.leaveList g (.console c)
  | .holder g => d.endNoHang g .portReset

end Sys2Proof.Machine
end

