-- ==== Sys2Proof/Machine/Radio.lean ====
section
/-!
DEFINITION. The events of the radio ports: emergency status, link, restart, guard, carrier, keying limits (chapters 1 and 2),
and the five port requests with PORT-CLEAR.
An event of a count of frames (emergency status, link, carrier) has its effect where the count has reached its length, and no
effect elsewhere (log entry 1). The expiry of a timer has its effect wherever the timer runs (log entry 2).
-/

namespace Sys2Proof.Machine

/-! Emergency status (R2). -/

/-- The status becomes asserted when the input has been high for 20 ms. -/
def Part.emergencyAsserted (p : PortNo) (d : Part) : Part :=
  if !(d.port p).emergency && (d.port p).emergencyDue then
    (d.modPort p fun r => { r with emergency := true, emergencyCount := 0 }).emergencyRaised p
  else d

/-- The status becomes released when the input has been low for 20 ms. -/
def Part.emergencyReleased (p : PortNo) (d : Part) : Part :=
  if (d.port p).emergency && (d.port p).emergencyDue then d.modPort p fun r => { r with emergency := false, emergencyCount := 0 }
  else d

/-! Link and restart (R6 to R8). The link monitor does not count while the start-up load runs (R129). -/

/-- What the loss of a port that was in `was` reports to the arbiter (R6). -/
def Part.reportLoss (was : PortState) (p : PortNo) (d : Part) : Part :=
  match was with
  | .source => d.sourceLost p
  | .keyed | .idle => d.memberUnavailable p
  | .offline | .cooldown | .latched => d

def Part.linkLoss (p : PortNo) (d : Part) : Part :=
  if (d.port p).linkUp && (d.port p).linkDue && !d.loading then
    let was := (d.port p).state
    let d := d.modPort p PortRec.loseLink
    (d.portNotice p .linkDown).reportLoss was p
  else d

def Part.linkReturn (p : PortNo) (d : Part) : Part :=
  if !(d.port p).linkUp && (d.port p).linkDue && !d.loading then
    (d.modPort p (PortRec.returnLink (d.floorTest p))).portNotice p .linkUp
  else d

def Part.restartTimerExpiry (p : PortNo) (d : Part) : Part :=
  if (d.port p).restartPhase = .waiting then
    (d.modPort p fun r =>
      { r with restartPhase := .pulsing, restartTimer := startTimer (pulseFrames r.settings.restartPulse) }).portNotice p .restart
  else d

def Part.restartPulseEnd (p : PortNo) (d : Part) : Part :=
  if (d.port p).restartPhase = .pulsing then d.modPort p PortRec.startRestart else d

/-! Guard and carrier (R12 to R15). -/

def Part.guardEnd (p : PortNo) (d : Part) : Part :=
  if (d.port p).guardActive then d.modPort p (PortRec.change fun r => { r with guard := none }) else d

/-- The floor request of a port whose carrier has become yes, by its state and group (R13). -/
def Part.claimIfMember (p : PortNo) (d : Part) : Part :=
  if (d.port p).state = .idle ∨ (d.port p).state = .keyed then
    match d.groupOf p with
    | none => d
    | some g => d.floorRequest g p
  else d

def Part.carrierYes (p : PortNo) (d : Part) : Part :=
  if !(d.port p).suppressed && !(d.port p).carrier && (d.port p).runDue then
    ((d.modPort p fun r => { r with carrier := true, runCount := 0 }).carrierNotice p true).claimIfMember p
  else d

def Part.carrierNo (p : PortNo) (d : Part) : Part :=
  if (d.port p).carrier && (d.port p).runDue then
    ((d.modPort p fun r => { r with carrier := false, runCount := 0 }).carrierNotice p false).carrierDrop p
  else d

/-! Keying limits (R27, R28, R30, R33). -/

def Part.transmitLimitExpiry (p : PortNo) (d : Part) : Part :=
  if (d.port p).transmitTimer.isSome && decide ((d.port p).state = .keyed) then
    ((d.modPort p PortRec.limitOut).portNotice p .txLimit).memberUnavailable p
  else d

def Part.carrierLimitExpiry (p : PortNo) (d : Part) : Part :=
  if (d.port p).carrierTimer.isSome && decide ((d.port p).state = .source) then
    ((d.modPort p PortRec.limitOut).portNotice p .carrierLimit).sourceLost p
  else d

/-- The state that the floor test gives a port that comes back into service (R5). -/
def Part.serviceState (d : Part) (p : PortNo) : PortState := if d.floorTest p then .keyed else .idle

def Part.cooldownExpiry (p : PortNo) (d : Part) : Part :=
  if (d.port p).cooldownTimer.isSome && decide ((d.port p).state = .cooldown) then
    (d.modPort p (PortRec.goTo (d.serviceState p))).portNotice p .cooldownEnd
  else d

/-! Port requests (R20 to R23, R32, R33). -/

/-- The port record of a PORT-READ response (R164). -/
def Part.portRecordBytes (d : Part) (p : PortNo) : List Byte :=
  let r := d.port p
  ctlByte r.settings.owner :: (r.settings.bytes ++
    [r.state.code, boolByte r.linkUp, r.restartPhase.code, boolByte r.carrier, byteOf r.rawLevel, boolByte r.guardActive,
     boolByte r.emergency, optByte groupByte (d.groupOf p)])

/-- PORT-READ (R20). -/
def portReadRequest : Handler := fun _ _ ps d =>
  match numOf 24 (arg ps 0) with
  | none => reply .badValue d
  | some p => replyOk (portByte p :: d.portRecordBytes p) d

/-- The part as an accepted PORT-SET leaves it (R21): the record; the CARRIER notice and the drop of a carrier that the
filter restart takes from yes to no. -/
def Part.portSet (p : PortNo) (s : PortSettings) (d : Part) : Part :=
  let had := (d.port p).carrier
  let d := d.modPort p (PortRec.applySettings s)
  if had then (d.carrierNotice p false).carrierDrop p else d

/-- PORT-SET (R21). -/
def portSetRequest : Handler := fun c _ ps d =>
  match numOf 24 (arg ps 0) with
  | none => reply .badValue d
  | some p =>
    match PortSettings.ofBytes (d.port p).settings.owner (ps.drop 1) with
    | none => reply .badValue d
    | some s => if (d.port p).settings.owner ≠ c then reply .notOwner d else replyOk [] (d.portSet p s)

/-- Where PORT-CLEAR takes a COOLDOWN or LATCHED port (R33). -/
def Part.clearState (d : Part) (p : PortNo) : PortState := if (d.port p).linkUp then d.serviceState p else .offline

/-- PORT-CLEAR carried out (R33). -/
def Part.portClear (p : PortNo) (d : Part) : Part :=
  (d.modPort p (PortRec.goTo (d.clearState p))).portNotice p .cleared

/-- PORT-CLEAR (R32). -/
def portClearRequest : Handler := fun c _ ps d =>
  match numOf 24 (arg ps 0) with
  | none => reply .badValue d
  | some p =>
    if (d.port p).settings.owner ≠ c then reply .notOwner d
    else if (d.port p).state = .cooldown ∨ (d.port p).state = .latched then
      let d' := d.portClear p
      replyOk [(d'.port p).state.code] d'
    else reply .state d

/-- The owner becomes `c` (R22, R23). -/
def Part.setOwner (p : PortNo) (c : CtlNo) (d : Part) : Part :=
  d.modPort p fun r => { r with settings := { r.settings with owner := c } }

/-- PORT-GIVE (R22). -/
def portGiveRequest : Handler := fun c _ ps d =>
  match numOf 24 (arg ps 0), numOf 6 (arg ps 1) with
  | some p, some k => if (d.port p).settings.owner ≠ c then reply .notOwner d else replyOk [] (d.setOwner p k)
  | _, _ => reply .badValue d

/-- PORT-CLAIM (R23). -/
def portClaimRequest : Handler := fun c _ ps d =>
  match numOf 24 (arg ps 0) with
  | none => reply .badValue d
  | some p => if (d.ctl (d.port p).settings.owner).attached then reply .state d else replyOk [] (d.setOwner p c)

/-! The meanings. -/

/-- EMERGENCY_STATUS_ASSERTED (R2, R98). -/
def execEmergencyStatusAsserted (p : PortNo) (s : State) : Host.Outcome State Fault Refusal := s.run (Part.emergencyAsserted p)

/-- EMERGENCY_STATUS_RELEASED (R2): no report to the arbiter. -/
def execEmergencyStatusReleased (p : PortNo) (s : State) : Host.Outcome State Fault Refusal := s.run (Part.emergencyReleased p)

/-- LINK_LOSS (R6). -/
def execLinkLoss (p : PortNo) (s : State) : Host.Outcome State Fault Refusal := s.run (Part.linkLoss p)

/-- LINK_RETURN (R7). -/
def execLinkReturn (p : PortNo) (s : State) : Host.Outcome State Fault Refusal := s.run (Part.linkReturn p)

/-- RESTART_TIMER_EXPIRY (R8). -/
def execRestartTimerExpiry (p : PortNo) (s : State) : Host.Outcome State Fault Refusal := s.run (Part.restartTimerExpiry p)

/-- RESTART_PULSE_END (R8). -/
def execRestartPulseEnd (p : PortNo) (s : State) : Host.Outcome State Fault Refusal := s.run (Part.restartPulseEnd p)

/-- GUARD_END (R12). -/
def execGuardEnd (p : PortNo) (s : State) : Host.Outcome State Fault Refusal := s.run (Part.guardEnd p)

/-- QUALIFIED_CARRIER_YES (R10, R13, R15). -/
def execQualifiedCarrierYes (p : PortNo) (s : State) : Host.Outcome State Fault Refusal := s.run (Part.carrierYes p)

/-- QUALIFIED_CARRIER_NO (R10, R14, R15). -/
def execQualifiedCarrierNo (p : PortNo) (s : State) : Host.Outcome State Fault Refusal := s.run (Part.carrierNo p)

/-- TRANSMIT_LIMIT_EXPIRY (R27). -/
def execTransmitLimitExpiry (p : PortNo) (s : State) : Host.Outcome State Fault Refusal := s.run (Part.transmitLimitExpiry p)

/-- CARRIER_LIMIT_EXPIRY (R28). -/
def execCarrierLimitExpiry (p : PortNo) (s : State) : Host.Outcome State Fault Refusal := s.run (Part.carrierLimitExpiry p)

/-- COOLDOWN_EXPIRY (R30). -/
def execCooldownExpiry (p : PortNo) (s : State) : Host.Outcome State Fault Refusal := s.run (Part.cooldownExpiry p)

/-- PORT_READ (R20). -/
def execPortRead (c : CtlNo) (s : State) : Host.Outcome State Fault Refusal := s.run (Part.serve .portRead portReadRequest c)

/-- PORT_SET (R21). -/
def execPortSet (c : CtlNo) (s : State) : Host.Outcome State Fault Refusal := s.run (Part.serve .portSet portSetRequest c)

/-- PORT_CLEAR (R32, R33). -/
def execPortClear (c : CtlNo) (s : State) : Host.Outcome State Fault Refusal := s.run (Part.serve .portClear portClearRequest c)

/-- PORT_GIVE (R22). -/
def execPortGive (c : CtlNo) (s : State) : Host.Outcome State Fault Refusal := s.run (Part.serve .portGive portGiveRequest c)

/-- PORT_CLAIM (R23). -/
def execPortClaim (c : CtlNo) (s : State) : Host.Outcome State Fault Refusal := s.run (Part.serve .portClaim portClaimRequest c)

end Sys2Proof.Machine
end

