-- ==== Sys2Proof/Machine/Audio.lean ====
section
/-!
DEFINITION. The audio switch (chapter 7): routing, console mixes, the TDM frame with what the port unit counts in it
(R1, R2, R6, R7, R9, R10), and the level blocks (R113).
-/

namespace Sys2Proof.Machine

/-! Routing (R110 to R112). -/

def portSlot (p : PortNo) : TdmSlot := ⟨p.val, by omega⟩
def consoleSlot (c : CtlNo) : TdmSlot := ⟨24 + c.val, by omega⟩

/-- The slot of a source. -/
def Source.slot : Source → TdmSlot
  | .port p => portSlot p
  | .console c => consoleSlot c

/-- The routed source of a group (R110): its floor holder in PENDING and TALK, none in FREE and HANG. -/
def Part.routedSource (d : Part) (g : GroupNo) : Option TdmSlot :=
  match (d.floor g).state with
  | .free | .hang => none
  | .pending | .talk => (d.floor g).holder.map Source.slot

/-- The routed source sample: the sample taken from that slot in the frame before (R108, R110). -/
def Part.routedSample (d : Part) (g : GroupNo) : Option Sample := (d.routedSource g).map fun i => tget d.taken i

/-- What transmit slot p of a radio port carries (R111). -/
def Part.radioOut (d : Part) (p : PortNo) : Sample :=
  if (d.port p).state = .keyed then
    match d.groupOf p with
    | none => 0
    | some g => (d.routedSample g).getD 0
  else 0

/-- Limits a sum at full scale (R112). -/
def limitSum (x : Int) : Sample := BitVec.ofInt 16 (if x > 32767 then 32767 else if x < -32768 then -32768 else x)

/-- A group's contribution to console c's mix: none if its routed source is the console's own microphone (R112). -/
def Part.mixTerm (d : Part) (c : CtlNo) (g : GroupNo) : Int :=
  match d.routedSource g with
  | none => 0
  | some i => if i = consoleSlot c then 0 else (tget d.taken i).toInt

/-- The console mix (R112). -/
def Part.consoleOut (d : Part) (c : CtlNo) : Sample :=
  limitSum ((d.console c).monitor.foldl (fun acc g => acc + d.mixTerm c g) 0)

/-- The sample driven into a transmit slot by the routing as it stands (R108, R111, R112). -/
def Part.slotOut (d : Part) (i : TdmSlot) : Sample :=
  if h : i.val < 24 then d.radioOut ⟨i.val, h⟩ else d.consoleOut ⟨i.val - 24, by omega⟩

/-! What one frame does to a port record. -/

/-- The link monitor (R6, R7): frames without the qualifier while UP, with it while DOWN. -/
def PortRec.monitorLink (valid : Bool) (r : PortRec) : PortRec :=
  { r with linkCount :=
      if r.linkUp then (if valid then 0 else r.linkCount + 1)
      else (if valid then r.linkCount + 1 else 0) }

/-- The debounce count of the emergency input (R2): samples of the level opposite to the status. -/
def PortRec.debounce (high : Bool) (r : PortRec) : PortRec :=
  { r with emergencyCount := if high = r.emergency then 0 else r.emergencyCount + 1 }

/-- The attack time while the carrier is no, the release time while it is yes (R10); a time of 0 ends the run in its first frame. -/
def PortRec.runTime (r : PortRec) : Nat :=
  max 1 (filterFrames (if r.carrier then r.settings.release else r.settings.attack))

/-- The filter's run count (R10): consecutive frames with the raw detect opposite to the qualified carrier. The time is read
at the start of the run. While suppressed the count stays at 0 (R11). -/
def PortRec.filterFrame (high : Bool) (r : PortRec) : PortRec :=
  if r.suppressed ∨ r.rawDetect high = r.carrier then { r with runCount := 0 }
  else
    let len := if r.runCount = 0 then r.runTime else r.runLength
    { r with runLength := len, runCount := r.runCount + 1 }

/-- One frame off every timer of the port. -/
def PortRec.tick (r : PortRec) : PortRec :=
  { r with
    restartTimer := tickTimer r.restartTimer
    guard := tickTimer r.guard
    transmitTimer := tickTimer r.transmitTimer
    carrierTimer := tickTimer r.carrierTimer
    cooldownTimer := tickTimer r.cooldownTimer }

/-- One frame at a radio port; `loading` stops the link monitor (R129). -/
def PortRec.frame (loading : Bool) (rx : RxSlot) (r : PortRec) : PortRec :=
  let r := if loading then r else r.monitorLink rx.valid
  ((r.debounce rx.emergencyHigh).filterFrame rx.carrierHigh).tick

def GroupRec.tick (r : GroupRec) : GroupRec :=
  { r with holdTimer := tickTimer r.holdTimer, dissolveTimer := tickTimer r.dissolveTimer }

def FloorRec.tick (f : FloorRec) : FloorRec :=
  { f with
    hangTimer := tickTimer f.hangTimer
    windowTimer := tickTimer f.windowTimer
    preemptTimer := tickTimer f.preemptTimer }

def StoreOp.tick (op : StoreOp) : StoreOp := { op with timeLeft := tickTimer op.timeLeft }

/-! Levels (R9, R113). -/

/-- The peak is at least 32767 × 10^(−d/20), as whole numbers: both sides to the twentieth power (R113). -/
def reaches (peak dB : Nat) : Bool := decide (32767 ^ 20 ≤ peak ^ 20 * 10 ^ dB)

/-- The level of a peak: 63 minus the smallest whole number of decibels it reaches, 0 if there is none (R113). -/
def levelOf (peak : Nat) : Nat :=
  if peak = 0 then 0
  else
    match (List.range 64).find? (reaches peak) with
    | some dB => 63 - dB
    | none => 0

/-- The raw level and the level hysteresis (R9). -/
def PortRec.setLevel (level : Nat) (r : PortRec) : PortRec :=
  { r with
    rawLevel := level
    hysteresis :=
      if r.settings.openThreshold ≤ level then true
      else if level < r.settings.closeThreshold then false else r.hysteresis }

/-- The end of a level block, which holds 80 frames (R113). -/
def Part.levelBlockEnd (d : Part) : Part :=
  if d.blockDue then
    { d with
      ports := tmap (fun p r => r.setLevel (levelOf (tget d.peaks p))) d.ports
      peaks := Vector.replicate 24 0
      blockFrames := 0 }
  else d

/-! The frame (R2, R6, R7, R10, R108, R109, R113). -/

/-- The sample taken from a radio slot: 0 without the qualifier (R109). -/
def takenSample (rx : RxSlot) : Sample := if rx.valid then rx.data else 0

/-- The samples taken from the thirty receive slots (R109). -/
def takenOf (rx : Vector RxSlot 24) (mics : Vector Sample 6) : Vector Sample 30 :=
  Vector.ofFn fun i =>
    if h : i.val < 24 then takenSample (tget rx ⟨i.val, h⟩) else tget mics ⟨i.val - 24, by omega⟩

/-- The magnitude of a sample; −32768 counts as 32767 (R113). -/
def magnitude (x : Sample) : Nat := min x.toInt.natAbs 32767

/-- What one frame does: the transmit slots are driven by the routing as it stands with the samples of the frame before, the
receive slots are taken, the peaks, counts and runs follow, and every timer runs one frame. -/
def Part.frame (rx : Vector RxSlot 24) (mics : Vector Sample 6) (d : Part) : Part :=
  { d with
    transmit := Vector.ofFn d.slotOut
    taken := takenOf rx mics
    peaks := tmap (fun p peak => max peak (magnitude (takenSample (tget rx p)))) d.peaks
    blockFrames := d.blockFrames + 1
    ports := tmap (fun p r => r.frame d.loading (tget rx p)) d.ports
    groups := tmap (fun _ r => r.tick) d.groups
    floors := tmap (fun _ f => f.tick) d.floors
    storeOp := d.storeOp.map StoreOp.tick }

/-- The events that a port's counts have made due; the others have no effect. -/
def Part.portCatchUp (p : PortNo) (d : Part) : Part :=
  (((((d.emergencyAsserted p).emergencyReleased p).linkLoss p).linkReturn p).carrierYes p).carrierNo p

/-- The events that the frames so far have made due and that no command has brought: they are taken before the next frame, so
that no count passes its length. The order is the model's choice (log entry 24). -/
def Part.catchUp (d : Part) : Part := (Part.each Part.portCatchUp (List.finRange 24) d).levelBlockEnd

/-- One TDM frame (R108), after the events that are due. -/
def Part.tdmFrame (rx : Vector RxSlot 24) (mics : Vector Sample 6) (d : Part) : Part := d.catchUp.frame rx mics

/-! The meanings. -/

/-- LEVEL_BLOCK_END (R113). -/
def execLevelBlockEnd (s : State) : Host.Outcome State Fault Refusal := s.run Part.levelBlockEnd

/-- TDM_FRAME (R108). -/
def execTdmFrame (rx : Vector RxSlot 24) (mics : Vector Sample 6) (s : State) : Host.Outcome State Fault Refusal :=
  s.run (Part.tdmFrame rx mics)

end Sys2Proof.Machine
end

