-- ==== Sys2Proof/Machine/Link.lean ====
section
/-!
DEFINITION. The controller ports (chapter 9): the link cycle, the frames written and the entries read, ATTACH, DETACH,
NOTICE-MASK, the controller port reset, the device reset.
-/

namespace Sys2Proof.Machine

/-! The link cycle (R132, R134, R138). -/

/-- What becomes of a cycle that the port-reset line or a device reset abandons (R145, R147): the port may still be selected, and
serves nothing. -/
def CtlPort.abandoned (q : CtlPort) : Cycle := if q.cycle = .closed then .closed else .ignored

/-- A select while the port-reset line is asserted is ignored (R145): no cycle begins, now or at the release of the line. That the
output carries filler if the port is still selected at the release is the model's reading (log entry 25). -/
def CtlPort.ignoreSelect (q : CtlPort) : CtlPort := if q.cycle = .closed then { q with cycle := .ignored, offered := [] } else q

/-- The cycle opens: the status byte is built as the port stands now (R132, R133). -/
def Part.openCycle (c : CtlNo) (d : Part) : Part :=
  let status := d.statusByte c
  d.modCtl c fun q => { q with cycle := .direction, offered := [status] }

/-- What a READ cycle shifts out after the status byte: the head entry, or the empty-frame marker (R138). -/
def CtlPort.readBytes (q : CtlPort) : List Byte :=
  match q.outbound with
  | [] => [emptyMarker]
  | e :: _ => e.bytes

/-- The direction byte completes (R132): the overrun flag becomes clear, and the cycle goes on by the code. -/
def CtlPort.direct (code : Byte) (q : CtlPort) : CtlPort :=
  let q := { q with overrun := false }
  if code = writeCode then { q with cycle := .write, frame := none }
  else if code = readCode then { q with cycle := .read (!q.outbound.isEmpty), offered := q.offered ++ q.readBytes }
  else { q with cycle := .ignored }

/-- The two moments of the direction byte. -/
def Part.directionByte (c : CtlNo) (part : DirectionPart) (d : Part) : Part :=
  if (d.ctl c).resetLine then d.modCtl c CtlPort.ignoreSelect
  else
    match part, (d.ctl c).cycle with
    | .select, .closed => d.openCycle c
    | .complete code, .closed => (d.openCycle c).modCtl c (CtlPort.direct code)
    | .complete code, .direction => d.modCtl c (CtlPort.direct code)
    | .select, .direction | .select, .write | .select, .read _ | .select, .ignored
    | .complete _, .write | .complete _, .read _ | .complete _, .ignored => d

/-- A whole frame has arrived (R134): appended to the request buffer, or discarded with the overrun flag set. -/
def CtlPort.acceptFrame (f : List Byte) (q : CtlPort) : CtlPort :=
  let q := { q with frame := none, cycle := .ignored }
  if q.buffer.length < Config.requestCapacity then { q with buffer := q.buffer ++ [f] } else { q with overrun := true }

/-- One byte in a WRITE cycle (R134). -/
def CtlPort.receiveByte (q : CtlPort) (b : Byte) : CtlPort :=
  if q.cycle = .write then
    let f := q.frame.getD [] ++ [b]
    let len := (f.getD 0 0).toNat
    if len < Config.minFrame ∨ len > Config.maxFrame then { q with frame := none, cycle := .ignored }
    else if f.length = len then q.acceptFrame f
    else { q with frame := some f }
  else q

/-- The bytes of a FRAME_COMPLETION arrive (R134). -/
def Part.frameCompletion (c : CtlNo) (bytes : List Byte) (d : Part) : Part :=
  if (d.ctl c).resetLine then d else d.modCtl c fun q => bytes.foldl CtlPort.receiveByte q

/-- The cycle closes: a frame in progress is discarded, an unfinished entry stays at the head (R134, R138). -/
def CtlPort.endCycle (q : CtlPort) : CtlPort := { q with frame := none, cycle := .closed, offered := [] }

def Part.linkCycleEnd (c : CtlNo) (d : Part) : Part := d.modCtl c CtlPort.endCycle

/-- The head entry is removed; with the lost-notice flag set a LOST notice takes the freed entry and the flag becomes clear
(R138, R140). A READ cycle removes at most one entry. -/
def CtlPort.removeHead (q : CtlPort) : CtlPort :=
  let q := { q with outbound := q.outbound.tail, cycle := .ignored }
  if q.lost then { q with outbound := q.outbound ++ [.notice .lost], lost := false } else q

def Part.removal (c : CtlNo) (d : Part) : Part :=
  if (d.ctl c).cycle = .read true ∧ (d.ctl c).outbound ≠ [] then d.modCtl c CtlPort.removeHead else d

/-! The controller port reset (R146). -/

/-- What a controller port reset leaves of the link cycle. The port-reset line abandons it (R132, R145): nothing is driven while
the line is asserted, and what is left of the selection after its release is filler, as R138 has it for a READ cycle; for the
other cycles that is the model's reading (log entry 25). A DETACH abandons none (R132): a direction byte goes on, and so does a
WRITE cycle none of whose bytes has come; the rest of a READ cycle is filler (R138). The rest of a WRITE cycle whose frame in
progress the reset clears is ignored, which is the model's choice (log entry 6). -/
def CtlPort.cycleAfterReset (q : CtlPort) : Cycle :=
  if q.resetLine then q.abandoned
  else
    match q.cycle with
    | .closed => .closed
    | .direction => .direction
    | .write => if q.frame = none then .write else .ignored
    | .read _ | .ignored => .ignored

/-- Step 1 (R131, R146): every field of the port to its reset value, and the link cycle as it goes on. The port-reset line is the
controller's. Of what a cycle that goes on has offered, the status byte stays. -/
def CtlPort.portReset (q : CtlPort) : CtlPort :=
  { CtlPort.reset with
    resetLine := q.resetLine
    cycle := q.cycleAfterReset
    offered := if q.resetLine = true ∨ q.cycle = .closed then [] else q.offered.take 1 }

/-- Step 2: the hold of controller c on a group, if it has one (R67). -/
def Part.endHoldOf (c : CtlNo) (g : GroupNo) (d : Part) : Part :=
  if (d.group g).holdHolder = some c then d.endHold g else d

/-- Step 5: the response of the pending operation of controller c is no longer wanted (R128). -/
def StoreOp.unwanted (c : CtlNo) (op : StoreOp) : StoreOp :=
  if op.requester = some c then { op with responseWanted := false } else op

/-- The controller port reset, its six steps in order (R146). -/
def Part.controllerPortReset (c : CtlNo) (d : Part) : Part :=
  let was := (d.ctl c).attached
  let d := d.modCtl c CtlPort.portReset
  let d := Part.each (Part.endHoldOf c) (List.finRange 12) d
  let d := d.endConsole c
  let d := d.modConsole c fun r => { r with involvement := .none, monitor := [] }
  let d := { d with storeOp := d.storeOp.map (StoreOp.unwanted c) }
  if was then d.notify (d.controllerRecipients c) (.controller c false) else d

/-- The port-reset line is asserted (R145). -/
def Part.portResetAsserted (c : CtlNo) (d : Part) : Part :=
  (d.modCtl c fun q => { q with resetLine := true }).controllerPortReset c

/-- The port-reset line is released (R145). -/
def Part.portResetReleased (c : CtlNo) (d : Part) : Part := d.modCtl c fun q => { q with resetLine := false }

/-! The port's own requests (R142 to R144). -/

/-- The attached set: bit c for each attached controller (R162). -/
def Part.attachedSet (d : Part) : Byte :=
  byteOf ((List.finRange 6).foldl (fun acc c => if (d.ctl c).attached then acc + 2 ^ c.val else acc) 0)

/-- ATTACH carried out (R142). -/
def Part.attach (c : CtlNo) (mode : AttnMode) (pol : Polarity) (d : Part) : Part :=
  let was := (d.ctl c).attached
  let d := d.modCtl c fun q => { q with attached := true, mode := mode, polarity := pol }
  if was then d else d.notify (d.controllerRecipients c) (.controller c true)

/-- ATTACH (R142). -/
def attachRequest : Handler := fun c _ ps d =>
  match AttnMode.ofByte (arg ps 0), Polarity.ofByte (arg ps 1) with
  | some mode, some pol =>
    let d' := d.attach c mode pol
    replyOk [d'.attachedSet] d'
  | _, _ => reply .badValue d

/-- DETACH (R144): the port is reset, and the reservation of the DETACH itself is kept for its response. -/
def Part.detach (c : CtlNo) (d : Part) : Part :=
  (d.controllerPortReset c).modCtl c fun q => { q with reservations := 1 }

def detachRequest : Handler := fun c _ _ d => replyOk [] (d.detach c)

/-- A mask: the kinds named, LOST added, in the order of their codes (R143). -/
def maskOf (ks : List NoticeKind) : List NoticeKind := NoticeKind.all.filter fun k => ks.contains k || k = .lost

/-- NOTICE-MASK (R143). -/
def noticeMaskRequest : Handler := fun c _ ps d =>
  match kindsOf (ps.drop 1) with
  | none => reply .badValue d
  | some ks =>
    if distinct ks then
      replyOk (byteOf (maskOf ks).length :: (maskOf ks).map NoticeKind.code)
        (d.modCtl c fun q => { q with mask := maskOf ks })
    else reply .badValue d

/-- A taken frame whose kind code names no request kind (R136): refused UNKNOWN-KIND, or FRAME-CHECK by the earlier check. -/
def Part.unknownKind (c : CtlNo) (d : Part) : Part :=
  match d.takeable c with
  | none => d
  | some f =>
    if ReqKind.ofByte (frameKind f) = none then
      let d1 := d.takeFrame c
      d1.respond c (frameKind f) (frameTag f) ((d1.refusal c f).getD .unknownKind) []
    else d

/-! The device reset (R127, R147). -/

/-- Every block at its reset values; the non-volatile memory keeps what it holds (a slot or record being written or erased is
EMPTY since the start of its operation), the port-reset lines keep their levels (log entry 12), and the start-up load begins. A
cycle in progress is abandoned (R147). That the rest of its selection is filler is the model's reading (log entry 25). -/
def Part.deviceReset (d : Part) : Part :=
  { Part.reset with
    slots := d.slots
    portsRecord := d.portsRecord
    ctls := tmap (fun _ q => { CtlPort.reset with resetLine := q.resetLine, cycle := q.abandoned }) d.ctls }

/-! The meanings. -/

/-- DEVICE_RESET (R147). -/
def execDeviceReset (s : State) : Host.Outcome State Fault Refusal := s.run Part.deviceReset

/-- PORT_RESET_ASSERTED (R145, R146). -/
def execPortResetAsserted (c : CtlNo) (s : State) : Host.Outcome State Fault Refusal := s.run (Part.portResetAsserted c)

/-- PORT_RESET_RELEASED (R145). -/
def execPortResetReleased (c : CtlNo) (s : State) : Host.Outcome State Fault Refusal := s.run (Part.portResetReleased c)

/-- DIRECTION_BYTE (R132). -/
def execDirectionByte (c : CtlNo) (part : DirectionPart) (s : State) : Host.Outcome State Fault Refusal :=
  s.run (Part.directionByte c part)

/-- FRAME_COMPLETION (R134). -/
def execFrameCompletion (c : CtlNo) (bytes : List Byte) (s : State) : Host.Outcome State Fault Refusal :=
  s.run (Part.frameCompletion c bytes)

/-- LINK_CYCLE_END (R132, R134, R138). -/
def execLinkCycleEnd (c : CtlNo) (s : State) : Host.Outcome State Fault Refusal := s.run (Part.linkCycleEnd c)

/-- REMOVAL (R138, R140). -/
def execRemoval (c : CtlNo) (s : State) : Host.Outcome State Fault Refusal := s.run (Part.removal c)

/-- UNKNOWN_KIND (R136). -/
def execUnknownKind (c : CtlNo) (s : State) : Host.Outcome State Fault Refusal := s.run (Part.unknownKind c)

/-- ATTACH (R142). -/
def execAttach (c : CtlNo) (s : State) : Host.Outcome State Fault Refusal := s.run (Part.serve .attach attachRequest c)

/-- DETACH (R144). -/
def execDetach (c : CtlNo) (s : State) : Host.Outcome State Fault Refusal := s.run (Part.serve .detach detachRequest c)

/-- NOTICE_MASK (R143). -/
def execNoticeMask (c : CtlNo) (s : State) : Host.Outcome State Fault Refusal :=
  s.run (Part.serve .noticeMask noticeMaskRequest c)

end Sys2Proof.Machine
end

