-- ==== Sys2Proof/Machine/Patch.lean ====
section
/-!
DEFINITION. The patch table: membership and its reports (R19, R42, R79, R80), the layout requests, the digest, dissolve
(chapter 3), and the holds (chapter 4).
-/

namespace Sys2Proof.Machine

/-! Membership (R38, R42). -/

def Part.setMembers (g : GroupNo) (ms : List PortNo) (d : Part) : Part := d.modGroup g fun r => { r with members := ms }

/-- What the arbiter does with a removal from a group that stays FORMED, by the port's role (R80). -/
def Part.removedRole (g : GroupNo) (p : PortNo) (d : Part) : Part :=
  if (d.floor g).holder = some (.port p) then d.endNoHang g .removed else d.leaveIfWaiting g p

/-- The report of a removal (R19, R80): first the port unit acts, then the arbiter, by the layout state after it. -/
def Part.reportRemoval (g : GroupNo) (p : PortNo) (d : Part) : Part :=
  let d := d.modPort p PortRec.removed
  if (d.group g).formed then d.removedRole g p else d.emptyFloor g

/-- A port leaves a group: the member list is written, then the removal is reported (R42). -/
def Part.leaveGroup (g : GroupNo) (p : PortNo) (d : Part) : Part :=
  (d.setMembers g ((d.group g).members.filter fun m => m ≠ p)).reportRemoval g p

/-- The floor request that a join calls for (R19): of an IDLE port in a FREE group, or of a FULL port keyed by the join, with a
qualified carrier of yes. -/
def Part.claimOnJoin (g : GroupNo) (p : PortNo) (d : Part) : Part :=
  let r := d.port p
  if r.carrier ∧ ((r.state = .idle ∧ (d.floor g).state = .free) ∨ (r.state = .keyed ∧ (d.floor g).state ≠ .free)) then
    d.floorRequest g p
  else d

/-- The report of a join (R19, R79): a busy floor gives its key order. -/
def Part.reportJoin (g : GroupNo) (p : PortNo) (d : Part) : Part :=
  let d := if (d.floor g).state = .free then d else d.modPort p PortRec.key
  d.claimOnJoin g p

/-- A port joins a group at the tail (R38). -/
def Part.joinGroup (g : GroupNo) (p : PortNo) (d : Part) : Part :=
  (d.setMembers g ((d.group g).members ++ [p])).reportJoin g p

/-- Steps 3 and 4 of R42: the revision increases by one modulo 65536, the dissolve timer follows its condition, and the
LAYOUT notice is generated (R41, R151). -/
def Part.bumpRevision (g : GroupNo) (cause : LayoutCause) (d : Part) : Part :=
  let d := (d.modGroup g fun r => { r with revision := r.revision + 1 }).refreshDissolve g
  d.notify d.layoutRecipients (.layout g (d.group g).revision cause)

/-- Every member leaves at once (R49, R52): the list is emptied, the port unit acts on each removal in member-list order, and
the arbiter takes them as one emptying. -/
def Part.removeAll (g : GroupNo) (d : Part) : Part :=
  let ms := (d.group g).members
  (Part.each (fun p d => d.modPort p PortRec.removed) ms (d.setMembers g [])).emptyFloor g

/-! The group snapshot (R44, R163). -/

def Part.snapshotBytes (d : Part) (g : GroupNo) : List Byte :=
  let r := d.group g
  let f := d.floor g
  [groupByte g, boolByte r.formed] ++ wordBytes r.revision ++ r.settings.bytes ++
    [optByte ctlByte r.holdHolder, boolByte r.dissolveTimer.isSome] ++
    wordBytes (BitVec.ofNat 16 (secondsLeft r.dissolveTimer)) ++
    [f.state.code, optByte Source.code f.holder, boolByte f.mark, byteOf r.members.length] ++ r.members.map portByte ++
    byteOf f.waiting.length :: f.waiting.map Entry.byte

/-! The layout requests (R43 to R49). -/

/-- A parameter that names a group restarts the hold timer of its holder before the owner's checks (R64). -/
def Part.touchNamed (c : CtlNo) (b : Byte) (d : Part) : Part :=
  match numOf 12 b with
  | none => d
  | some g => d.touchHold c g

/-- GROUP-READ (R44). -/
def groupReadRequest : Handler := fun c _ ps d =>
  let d := d.touchNamed c (arg ps 0)
  match numOf 12 (arg ps 0) with
  | none => reply .badValue d
  | some g => replyOk (d.snapshotBytes g) d

/-- A STALE refusal carries the target group's current revision (R43, R162). -/
def replyStale (g : GroupNo) (d : Part) : Reply :=
  { part := d, answer := some (.stale, wordBytes (d.group g).revision) }

/-- The port is a member of another group than `g`: that group (R43 step 2, R46). -/
def Part.otherGroup (d : Part) (g : GroupNo) (p : PortNo) : Option GroupNo :=
  match d.groupOf p with
  | none => none
  | some old => if old = g then none else some old

/-- Is there a hold of another controller on a group, where one is named? -/
def Part.heldByOther? (d : Part) (c : CtlNo) : Option GroupNo → Bool
  | none => false
  | some g => (d.group g).heldByOther c

/-- The first part of a move (R46): removal from the old group, with its revision and its LAYOUT notice. -/
def Part.moveOut (p : PortNo) (old : Option GroupNo) (d : Part) : Part :=
  match old with
  | none => d
  | some o => (d.leaveGroup o p).bumpRevision o .moved

/-- GROUP-ADD carried out (R45, R46). -/
def Part.groupAdd (g : GroupNo) (p : PortNo) (d : Part) : Part :=
  ((d.moveOut p (d.otherGroup g p)).joinGroup g p).bumpRevision g .request

/-- The data of GROUP-ADD's OK: target revision, old group or FFh, its revision or 0 (R162). -/
def Part.addedBytes (d : Part) (g : GroupNo) (old : Option GroupNo) : List Byte :=
  wordBytes (d.group g).revision ++
    match old with
    | none => noneByte :: wordBytes 0
    | some o => groupByte o :: wordBytes (d.group o).revision

/-- GROUP-ADD (R43, R45, R46, R61). -/
def groupAddRequest : Handler := fun c _ ps d =>
  let d := d.touchNamed c (arg ps 0)
  match numOf 12 (arg ps 0), numOf 24 (arg ps 1) with
  | some g, some p =>
    let old := d.otherGroup g p
    if (d.group g).heldByOther c || d.heldByOther? c old then reply .held d
    else if (d.group g).revision ≠ wordOf (arg ps 2) (arg ps 3) then replyStale g d
    else if (d.group g).members.contains p then reply .state d
    else
      let d' := d.groupAdd g p
      replyOk (d'.addedBytes g old) d'
  | _, _ => reply .badValue d

/-- GROUP-REMOVE carried out (R47). -/
def Part.groupRemove (g : GroupNo) (p : PortNo) (d : Part) : Part := (d.leaveGroup g p).bumpRevision g .request

/-- An OK that carries the group's new revision (R162). -/
def replyRevision (g : GroupNo) (d : Part) : Reply := replyOk (wordBytes (d.group g).revision) d

/-- GROUP-REMOVE (R43, R47). -/
def groupRemoveRequest : Handler := fun c _ ps d =>
  let d := d.touchNamed c (arg ps 0)
  match numOf 12 (arg ps 0), numOf 24 (arg ps 1) with
  | some g, some p =>
    if (d.group g).heldByOther c then reply .held d
    else if (d.group g).revision ≠ wordOf (arg ps 2) (arg ps 3) then replyStale g d
    else if (d.group g).members.contains p then replyRevision g (d.groupRemove g p)
    else reply .notMember d
  | _, _ => reply .badValue d

/-- GROUP-SET carried out (R48). -/
def Part.groupSet (g : GroupNo) (s : GroupSettings) (d : Part) : Part :=
  (d.modGroup g fun r => { r with settings := s }).bumpRevision g .request

/-- GROUP-SET (R43, R48). -/
def groupSetRequest : Handler := fun c _ ps d =>
  let d := d.touchNamed c (arg ps 0)
  match numOf 12 (arg ps 0), GroupSettings.ofBytes (arg ps 1) (arg ps 2) (arg ps 3) (arg ps 4) with
  | some g, some st =>
    if (d.group g).heldByOther c then reply .held d
    else if (d.group g).revision ≠ wordOf (arg ps 5) (arg ps 6) then replyStale g d
    else replyRevision g (d.groupSet g st)
  | _, _ => reply .badValue d

/-- GROUP-DISBAND carried out (R49). -/
def Part.groupDisband (g : GroupNo) (d : Part) : Part :=
  ((d.modGroup g fun r => { r with settings := GroupSettings.default }).removeAll g).bumpRevision g .request

/-- GROUP-DISBAND (R43, R49). -/
def groupDisbandRequest : Handler := fun c _ ps d =>
  let d := d.touchNamed c (arg ps 0)
  match numOf 12 (arg ps 0) with
  | none => reply .badValue d
  | some g =>
    if (d.group g).heldByOther c then reply .held d
    else if (d.group g).revision ≠ wordOf (arg ps 1) (arg ps 2) then replyStale g d
    else replyRevision g (d.groupDisband g)

/-! The digest (R54, R55). -/

/-- The serialization of one group (R55). -/
def Part.digestBytes (d : Part) (g : GroupNo) : List Byte :=
  let r := d.group g
  groupByte g :: wordBytes r.revision ++ byteOf r.members.length :: r.members.map portByte ++ r.settings.bytes

/-- The digest over `count` groups from `first` on, cut at group 11 (R54). -/
def Part.digest (d : Part) (first count : Nat) : Word :=
  crc (((List.finRange 12).filter fun g => decide (first ≤ g.val) && decide (g.val < first + count)).flatMap d.digestBytes)

/-- GROUP-DIGEST (R54). -/
def groupDigestRequest : Handler := fun _ _ ps d =>
  let first := (arg ps 0).toNat
  let count := (arg ps 1).toNat
  if first ≥ 12 ∨ count = 0 ∨ count > 12 then reply .badValue d
  else
    let used := min count (12 - first)
    replyOk (byteOf first :: byteOf used :: wordBytes (d.digest first used)) d

/-! Dissolve (R52). -/

def Part.dissolveExpiry (g : GroupNo) (d : Part) : Part :=
  if (d.group g).dissolveTimer.isSome then (d.removeAll g).bumpRevision g .dissolve else d

/-! Holds (chapter 4). -/

/-- The hold of a group begins (R58): holder, timer of 30 s, and the dissolve timer stops with its condition. -/
def Part.beginHold (c : CtlNo) (g : GroupNo) (d : Part) : Part :=
  (d.modGroup g fun r => { r with holdHolder := some c, holdTimer := startTimer Config.holdTime }).refreshDissolve g

/-- HOLD (R57, R58, R59). The restart of a renewed hold's timer is that of R64. -/
def holdRequest : Handler := fun c _ ps d =>
  let d := d.touchNamed c (arg ps 0)
  match numOf 12 (arg ps 0) with
  | none => reply .badValue d
  | some g =>
    match (d.group g).holdHolder with
    | some h =>
      if h = c then replyOk (d.snapshotBytes g) d
      else { part := d, answer := some (.held, [ctlByte h]) }
    | none =>
      if (d.heldBy c).isSome then reply .state d
      else if (d.group g).revision ≠ wordOf (arg ps 1) (arg ps 2) then replyStale g d
      else
        let d' := d.beginHold c g
        replyOk (d'.snapshotBytes g) d'

/-- RELEASE (R60). -/
def releaseRequest : Handler := fun c _ ps d =>
  match numOf 12 (arg ps 0) with
  | none => reply .badValue d
  | some g => if (d.group g).holdHolder = some c then replyOk [] (d.endHold g) else reply .state d

/-- The expiry of a hold timer (R65): the hold ends, HOLD-END to the controller that held the group, dissolve examined. -/
def Part.holdExpiry (g : GroupNo) (d : Part) : Part :=
  if (d.group g).holdTimer.isSome then
    match (d.group g).holdHolder with
    | none => d
    | some c => (d.endHold g).notify (onlyTo c) (.holdEnd g .timeout)
  else d

/-! The meanings. -/

/-- GROUP_READ (R44). -/
def execGroupRead (c : CtlNo) (s : State) : Host.Outcome State Fault Refusal := s.run (Part.serve .groupRead groupReadRequest c)

/-- GROUP_ADD (R45, R46). -/
def execGroupAdd (c : CtlNo) (s : State) : Host.Outcome State Fault Refusal := s.run (Part.serve .groupAdd groupAddRequest c)

/-- GROUP_REMOVE (R47). -/
def execGroupRemove (c : CtlNo) (s : State) : Host.Outcome State Fault Refusal :=
  s.run (Part.serve .groupRemove groupRemoveRequest c)

/-- GROUP_SET (R48). -/
def execGroupSet (c : CtlNo) (s : State) : Host.Outcome State Fault Refusal := s.run (Part.serve .groupSet groupSetRequest c)

/-- GROUP_DISBAND (R49). -/
def execGroupDisband (c : CtlNo) (s : State) : Host.Outcome State Fault Refusal :=
  s.run (Part.serve .groupDisband groupDisbandRequest c)

/-- GROUP_DIGEST (R54, R55). -/
def execGroupDigest (c : CtlNo) (s : State) : Host.Outcome State Fault Refusal :=
  s.run (Part.serve .groupDigest groupDigestRequest c)

/-- HOLD (R57 to R59). -/
def execHold (c : CtlNo) (s : State) : Host.Outcome State Fault Refusal := s.run (Part.serve .hold holdRequest c)

/-- RELEASE (R60). -/
def execRelease (c : CtlNo) (s : State) : Host.Outcome State Fault Refusal := s.run (Part.serve .release releaseRequest c)

/-- DISSOLVE_TIMER_EXPIRY (R52). -/
def execDissolveTimerExpiry (g : GroupNo) (s : State) : Host.Outcome State Fault Refusal := s.run (Part.dissolveExpiry g)

/-- HOLD_TIMER_EXPIRY (R65). -/
def execHoldTimerExpiry (g : GroupNo) (s : State) : Host.Outcome State Fault Refusal := s.run (Part.holdExpiry g)

end Sys2Proof.Machine
end

