-- ==== Sys2Proof/Machine/Store.lean ====
section
/-!
DEFINITION. The layout store (chapter 8): the five store requests, their completions, the application of a recall, and the
start-up load.
-/

namespace Sys2Proof.Machine

/-! Starting an operation (R119). -/

/-- The operation starts: the store leaves IDLE, the answer is deferred and its reservation held. -/
def Part.startOp (c : CtlNo) (tag : Byte) (kind : StoreKind) (time : Nat) (d : Part) : Reply :=
  { part := { d with storeOp := some { kind, requester := some c, responseWanted := true, tag, timeLeft := startTimer time } }
    answer := none }

/-- The group's entry in a snapshot (R118, R120). -/
def Part.groupEntry (d : Part) (g : GroupNo) : GroupEntry :=
  { group := g, settings := (d.group g).settings, members := (d.group g).members }

/-- PRESET-STORE (R120). -/
def presetStoreRequest : Handler := fun c tag ps d =>
  match numOf 16 (arg ps 0), numsOf 12 (ps.drop 2) with
  | some slot, some gs =>
    if gs = [] ∨ gs.length > 12 ∨ distinct gs = false then reply .badValue d
    else if d.storeOp.isSome then reply .busy d
    else (d.setSlot slot none).startOp c tag (.presetStore slot (gs.map d.groupEntry)) Config.writeTime
  | _, _ => reply .badValue d

/-- The 24 port entries as they stand (R117, R121). -/
def Part.portEntries (d : Part) : Vector PortSettings 24 := tmap (fun _ r => r.settings) d.ports

/-- PORTS-STORE (R121). -/
def portsStoreRequest : Handler := fun c tag _ d =>
  if d.storeOp.isSome then reply .busy d
  else { d with portsRecord := none : Part }.startOp c tag (.portsStore d.portEntries) Config.writeTime

/-- PRESET-ERASE (R122). -/
def presetEraseRequest : Handler := fun c tag ps d =>
  match numOf 16 (arg ps 0) with
  | none => reply .badValue d
  | some slot =>
    if d.storeOp.isSome then reply .busy d
    else (d.setSlot slot none).startOp c tag (.presetErase slot) Config.eraseTime

/-- PRESET-READ (R123). -/
def presetReadRequest : Handler := fun c tag ps d =>
  match numOf 16 (arg ps 0) with
  | none => reply .badValue d
  | some slot =>
    if d.storeOp.isSome then reply .busy d else d.startOp c tag (.presetRead slot) Config.readTime

/-- PRESET-RECALL (R124). -/
def presetRecallRequest : Handler := fun c tag ps d =>
  match numOf 16 (arg ps 0) with
  | none => reply .badValue d
  | some slot =>
    if d.storeOp.isSome then reply .busy d else d.startOp c tag (.presetRecall slot) Config.readTime

/-! Completion (R119, R128, R137). -/

/-- The store returns to IDLE. -/
def Part.storeIdle (d : Part) : Part := { d with storeOp := none }

/-- The request kind whose deferred response an operation gives; the start-up load gives none. -/
def StoreKind.request : StoreKind → Option ReqKind
  | .presetStore .. => some .presetStore
  | .portsStore .. => some .portsStore
  | .presetErase .. => some .presetErase
  | .presetRead .. => some .presetRead
  | .presetRecall .. => some .presetRecall
  | .startUpLoad => none

/-- The deferred response, unless it is no longer wanted (R128). -/
def Part.deferred (op : StoreOp) (st : Status) (data : List Byte) (d : Part) : Part :=
  match op.requester, op.kind.request with
  | some c, some k => if op.responseWanted then d.respond c k.code op.tag st data else d
  | _, _ => d

/-- PRESET-STORE's write completes (R120). -/
def Part.presetStoreDone (d : Part) : Part :=
  match d.storeOp with
  | some op =>
    match op.kind with
    | .presetStore slot snap => ((d.setSlot slot (some snap)).storeIdle).deferred op .ok [slotByte slot]
    | _ => d
  | none => d

/-- PORTS-STORE's write completes (R121). -/
def Part.portsStoreDone (d : Part) : Part :=
  match d.storeOp with
  | some op =>
    match op.kind with
    | .portsStore snap => ({ d with portsRecord := some snap : Part }.storeIdle).deferred op .ok []
    | _ => d
  | none => d

/-- PRESET-ERASE's erase completes (R122). -/
def Part.presetEraseDone (d : Part) : Part :=
  match d.storeOp with
  | some op =>
    match op.kind with
    | .presetErase slot => d.storeIdle.deferred op .ok [slotByte slot]
    | _ => d
  | none => d

/-- PRESET-READ's read completes (R123). -/
def Part.presetReadDone (d : Part) : Part :=
  match d.storeOp with
  | some op =>
    match op.kind with
    | .presetRead slot =>
      match tget d.slots slot with
      | some p => d.storeIdle.deferred op .ok (slotByte slot :: presetBytes p)
      | none => d.storeIdle.deferred op .noSuch []
    | _ => d
  | none => d

/-! Recall (R63, R124 to R126). -/

/-- The groups that a preset names, in entry order. -/
def Preset.named (p : Preset) : List GroupNo := p.map fun e => e.group

/-- The ports that a preset places. -/
def Preset.placed (p : Preset) : List PortNo := p.flatMap fun e => e.members

/-- The losing groups, in increasing number: not named, and holding a port that the preset places (R125). -/
def Part.losing (d : Part) (p : Preset) : List GroupNo :=
  (List.finRange 12).filter fun g =>
    !(Preset.named p).contains g && (d.group g).members.any fun m => (Preset.placed p).contains m

/-- The hold check (R63): is a group the recall touches held by a controller other than the requester? -/
def Part.recallHeld (d : Part) (p : Preset) (req : Option CtlNo) : Bool :=
  ((Preset.named p) ++ d.losing p).any fun g =>
    match (d.group g).holdHolder with
    | none => false
    | some h => some h ≠ req

/-- Pass 1 for one named group (R125): its floor is cleared with cause LAYOUT. -/
def Part.recallClear (g : GroupNo) (d : Part) : Part := d.clearFloor g .layout .layout

/-- Removals of several members of one group, one after the other in member-list order (R125). -/
def Part.leaveGroupAll (g : GroupNo) (ps : List PortNo) (d : Part) : Part := Part.each (Part.leaveGroup g) ps d

/-- Pass 2 for one losing group (R125): the ports the preset places leave it; revision, dissolve timer, LAYOUT notice. -/
def Part.recallLose (p : Preset) (g : GroupNo) (d : Part) : Part :=
  (d.leaveGroupAll g ((d.group g).members.filter fun m => (Preset.placed p).contains m)).bumpRevision g .recall

/-- Pass 2 for one named group (R125): the members its own entry does not list leave it. -/
def Part.recallTrim (e : GroupEntry) (d : Part) : Part :=
  d.leaveGroupAll e.group ((d.group e.group).members.filter fun m => !e.members.contains m)

/-- Pass 3 for one named group (R125, R126): member list and settings written, the joins reported in entry order, and the
dissolve timer of a group left with its condition true started from the full time. -/
def Part.recallWrite (e : GroupEntry) (d : Part) : Part :=
  let old := (d.group e.group).members
  let d := d.modGroup e.group fun r => { r with members := e.members, settings := e.settings, dissolveTimer := none }
  let d := Part.each (Part.reportJoin e.group) (e.members.filter fun m => !old.contains m) d
  d.bumpRevision e.group .recall

/-- A recall applied: the three passes (R125). -/
def Part.recallApply (p : Preset) (d : Part) : Part :=
  let losing := d.losing p
  let d := Part.each Part.recallClear (Preset.named p) d
  let d := Part.each (Part.recallLose p) losing d
  let d := Part.each Part.recallTrim p d
  Part.each Part.recallWrite p d

/-- PRESET-RECALL's read completes (R124): NO-SUCH, HELD, or the recall applied with the count of groups changed (R126). -/
def Part.presetRecallDone (d : Part) : Part :=
  match d.storeOp with
  | some op =>
    match op.kind with
    | .presetRecall slot =>
      let d0 := d.storeIdle
      match tget d.slots slot with
      | none => d0.deferred op .noSuch []
      | some p =>
        if d.recallHeld p op.requester then d0.deferred op .held []
        else (d0.recallApply p).deferred op .ok [slotByte slot, byteOf (p.length + (d.losing p).length)]
    | _ => d
  | none => d

/-! The start-up load (R129). -/

/-- A port takes its entry of a VALID port-settings record; a restart timeout other than OFF starts its restart timer (R8). -/
def PortRec.load (s : PortSettings) (r : PortRec) : PortRec :=
  let r := { r with settings := s }
  if s.restartTimeout ≠ 0 ∧ !r.linkUp then r.startRestart else r

def Part.loadPorts (d : Part) : Part :=
  match d.portsRecord with
  | none => d
  | some es => { d with ports := tmap (fun p r => r.load (tget es p)) d.ports }

/-- An entry of the start-up preset that lists a port forms its group at revision 1; one with no member is passed over. -/
def Part.loadEntry (e : GroupEntry) (d : Part) : Part :=
  if e.members.isEmpty then d
  else
    (d.modGroup e.group fun r => { r with members := e.members, settings := e.settings, revision := 1 }).refreshDissolve e.group

def Part.loadPreset (d : Part) : Part :=
  match tget d.slots 0 with
  | none => d
  | some p => Part.each Part.loadEntry p d

/-- The start-up load completes (R129). -/
def Part.loadDone (d : Part) : Part := if d.loading then d.loadPorts.loadPreset.storeIdle else d

/-! The meanings. -/

/-- START_UP_LOAD_COMPLETION (R129). -/
def execStartUpLoadCompletion (s : State) : Host.Outcome State Fault Refusal := s.run Part.loadDone

/-- PRESET_STORE (R120). -/
def execPresetStore (c : CtlNo) (s : State) : Host.Outcome State Fault Refusal :=
  s.run (Part.serve .presetStore presetStoreRequest c)

/-- PRESET_STORE_COMPLETION (R120). -/
def execPresetStoreCompletion (s : State) : Host.Outcome State Fault Refusal := s.run Part.presetStoreDone

/-- PORTS_STORE (R121). -/
def execPortsStore (c : CtlNo) (s : State) : Host.Outcome State Fault Refusal :=
  s.run (Part.serve .portsStore portsStoreRequest c)

/-- PORTS_STORE_COMPLETION (R121). -/
def execPortsStoreCompletion (s : State) : Host.Outcome State Fault Refusal := s.run Part.portsStoreDone

/-- PRESET_ERASE (R122). -/
def execPresetErase (c : CtlNo) (s : State) : Host.Outcome State Fault Refusal :=
  s.run (Part.serve .presetErase presetEraseRequest c)

/-- PRESET_ERASE_COMPLETION (R122). -/
def execPresetEraseCompletion (s : State) : Host.Outcome State Fault Refusal := s.run Part.presetEraseDone

/-- PRESET_READ (R123). -/
def execPresetRead (c : CtlNo) (s : State) : Host.Outcome State Fault Refusal :=
  s.run (Part.serve .presetRead presetReadRequest c)

/-- PRESET_READ_COMPLETION (R123). -/
def execPresetReadCompletion (s : State) : Host.Outcome State Fault Refusal := s.run Part.presetReadDone

/-- PRESET_RECALL (R124). -/
def execPresetRecall (c : CtlNo) (s : State) : Host.Outcome State Fault Refusal :=
  s.run (Part.serve .presetRecall presetRecallRequest c)

/-- PRESET_RECALL_COMPLETION (R124 to R126). -/
def execPresetRecallCompletion (s : State) : Host.Outcome State Fault Refusal := s.run Part.presetRecallDone

end Sys2Proof.Machine
end

