-- ==== Sys2Proof/Machine/Talk.lean ====
section
/-!
DEFINITION. Console talk and the floor timers: the talk requests (R81 to R85), FLOOR-CLEAR (R87), the expiries of the hang,
grant-window and preempt timers (R75, R82, R105), and CONSOLE-SET (R115).
-/

namespace Sys2Proof.Machine

/-- Outcome of TALK-REQUEST (R81, R160). -/
inductive TalkOutcome where
  | granted | waiting | resumed
  deriving DecidableEq, Repr

def TalkOutcome.code : TalkOutcome → Byte
  | .granted => 0 | .waiting => 1 | .resumed => 2

/-- OK with the outcome. -/
def replyOutcome (o : TalkOutcome) (d : Part) : Reply := replyOk [o.code] d

/-- The checks 2 to 4 of TALK-REQUEST (R81): none where they pass. -/
def Part.talkCheck (d : Part) (c : CtlNo) (g : GroupNo) : Option Status :=
  if !(d.group g).formed then some .noSuch
  else
    match (d.console c).involvement with
    | .none => none
    | .waiter h => if h = g then some .state else some .consoleBusy
    | .holder h =>
      if h ≠ g then some .consoleBusy
      else if (d.floor g).state = .pending ∨ (d.floor g).state = .talk then some .state else none

/-- A console's claim on a busy floor (R81 third case): the outcome is WAITING unless the claim was granted at once. -/
def Part.talkClaim (c : CtlNo) (g : GroupNo) (em : Bool) (d : Part) : Reply :=
  let e : Entry := { source := .console c, srcClass := (d.console c).srcClass, emergency := em }
  let d' := d.busyClaim g e (some c)
  replyOutcome (if (d'.floor g).holder = some (.console c) then .granted else .waiting) d'

/-- TALK-REQUEST that passes its checks, by the floor state (R81). -/
def Part.talkRequest (c : CtlNo) (g : GroupNo) (em : Bool) (d : Part) : Reply :=
  let f := d.floor g
  if f.state = .free then replyOutcome .granted (d.grantFromFree g (.console c) em)
  else if f.state = .hang ∧ f.holder = some (.console c) then
    replyOutcome .resumed ((d.resume g em).floorNotice g .resumed)
  else d.talkClaim c g em

/-- TALK-REQUEST (R81). -/
def talkRequestRequest : Handler := fun c _ ps d =>
  let d := d.touchNamed c (arg ps 0)
  match numOf 12 (arg ps 0), boolOf (arg ps 1) with
  | some g, some em =>
    match d.talkCheck c g with
    | some st => reply st d
    | none => d.talkRequest c g em
  | _, _ => reply .badValue d

/-- TALK-START carried out (R83). -/
def Part.talkStart (g : GroupNo) (d : Part) : Part :=
  (d.modFloor g fun f => { f with state := .talk, windowTimer := none }).floorNotice g .started

/-- OK with the group number (R162). -/
def replyGroup (g : GroupNo) (d : Part) : Reply := replyOk [groupByte g] d

/-- TALK-START (R83). -/
def talkStartRequest : Handler := fun c _ _ d =>
  match (d.console c).involvement with
  | .holder g => if (d.floor g).state = .pending then replyGroup g (d.talkStart g) else reply .state d
  | .none | .waiter _ => reply .state d

/-- TALK-END (R84). -/
def talkEndRequest : Handler := fun c _ _ d =>
  match (d.console c).involvement with
  | .holder g => if (d.floor g).state = .talk then replyGroup g (d.normalEnd g) else reply .state d
  | .none | .waiter _ => reply .state d

/-- TALK-CANCEL (R85). -/
def talkCancelRequest : Handler := fun c _ _ d =>
  match (d.console c).involvement with
  | .waiter g => replyGroup g (d.leaveList g (.console c))
  | .holder g => if (d.floor g).state = .pending then replyGroup g (d.lapseGrant g .cancelled) else reply .state d
  | .none => reply .state d

/-- FLOOR-CLEAR (R62, R87). -/
def floorClearRequest : Handler := fun c _ ps d =>
  let d := d.touchNamed c (arg ps 0)
  match numOf 12 (arg ps 0) with
  | none => reply .badValue d
  | some g =>
    if (d.group g).heldByOther c then reply .held d
    else if (d.floor g).state = .free then replyOk [] d
    else replyOk [] (d.clearFloor g .cleared .cleared)

/-! The floor timers. -/

/-- Hang expiry (R75): a parked console's involvement ends with no LAPSE notice. -/
def Part.hangExpiry (g : GroupNo) (d : Part) : Part :=
  if (d.floor g).hangTimer.isSome && decide ((d.floor g).state = .hang) then d.endNoHang g .hangExpired else d

/-- Grant-window expiry (R82). -/
def Part.windowExpiry (g : GroupNo) (d : Part) : Part :=
  if (d.floor g).windowTimer.isSome && decide ((d.floor g).state = .pending) then d.lapseGrant g .window else d

/-- Preempt timer expiry (R105). -/
def Part.preemptExpiry (g : GroupNo) (d : Part) : Part :=
  if (d.floor g).preemptTimer.isSome && decide ((d.floor g).state = .talk) && !(d.floor g).mark then d.cut g none else d

/-! CONSOLE-SET (R115). -/

/-- The set of the groups named, in increasing order. -/
def groupSetOf (gs : List GroupNo) : List GroupNo := (List.finRange 12).filter fun g => gs.contains g

/-- CONSOLE-SET carried out: class and monitor set at one event (R115). -/
def Part.consoleSet (c : CtlNo) (k : SrcClass) (gs : List GroupNo) (d : Part) : Part :=
  d.modConsole c fun r => { r with srcClass := k, monitor := groupSetOf gs }

/-- CONSOLE-SET (R115): more than 12 groups would name one twice or one outside 0..11. -/
def consoleSetRequest : Handler := fun c _ ps d =>
  match SrcClass.ofByte (arg ps 0), numsOf 12 (ps.drop 2) with
  | some k, some gs => if distinct gs ∧ gs.length ≤ 12 then replyOk [] (d.consoleSet c k gs) else reply .badValue d
  | _, _ => reply .badValue d

/-! The meanings. -/

/-- TALK_REQUEST (R81). -/
def execTalkRequest (c : CtlNo) (s : State) : Host.Outcome State Fault Refusal :=
  s.run (Part.serve .talkRequest talkRequestRequest c)

/-- TALK_START (R83). -/
def execTalkStart (c : CtlNo) (s : State) : Host.Outcome State Fault Refusal := s.run (Part.serve .talkStart talkStartRequest c)

/-- TALK_END (R84). -/
def execTalkEnd (c : CtlNo) (s : State) : Host.Outcome State Fault Refusal := s.run (Part.serve .talkEnd talkEndRequest c)

/-- TALK_CANCEL (R85). -/
def execTalkCancel (c : CtlNo) (s : State) : Host.Outcome State Fault Refusal :=
  s.run (Part.serve .talkCancel talkCancelRequest c)

/-- FLOOR_CLEAR (R87). -/
def execFloorClear (c : CtlNo) (s : State) : Host.Outcome State Fault Refusal :=
  s.run (Part.serve .floorClear floorClearRequest c)

/-- CONSOLE_SET (R115). -/
def execConsoleSet (c : CtlNo) (s : State) : Host.Outcome State Fault Refusal :=
  s.run (Part.serve .consoleSet consoleSetRequest c)

/-- HANG_TIMER_EXPIRY (R75). -/
def execHangTimerExpiry (g : GroupNo) (s : State) : Host.Outcome State Fault Refusal := s.run (Part.hangExpiry g)

/-- GRANT_WINDOW_EXPIRY (R82). -/
def execGrantWindowExpiry (g : GroupNo) (s : State) : Host.Outcome State Fault Refusal := s.run (Part.windowExpiry g)

/-- PREEMPT_TIMER_EXPIRY (R105). -/
def execPreemptTimerExpiry (g : GroupNo) (s : State) : Host.Outcome State Fault Refusal := s.run (Part.preemptExpiry g)

end Sys2Proof.Machine
end

