-- ==== Sys2Proof/Machine/Dispatch.lean ====
section
/-! DEFINITION. The meaning of each command: one arm per constructor, in the order of the opcode table. -/

namespace Sys2Proof.Machine

def exec (i : Instr) (s : State) : Host.Outcome State Fault Refusal :=
  match i with
  | .deviceReset => Sys2Proof.Machine.execDeviceReset s
  | .startUpLoadCompletion => Sys2Proof.Machine.execStartUpLoadCompletion s
  | .portResetAsserted c => Sys2Proof.Machine.execPortResetAsserted c s
  | .portResetReleased c => Sys2Proof.Machine.execPortResetReleased c s
  | .directionByte c part => Sys2Proof.Machine.execDirectionByte c part s
  | .frameCompletion c bytes => Sys2Proof.Machine.execFrameCompletion c bytes s
  | .linkCycleEnd c => Sys2Proof.Machine.execLinkCycleEnd c s
  | .removal c => Sys2Proof.Machine.execRemoval c s
  | .unknownKind c => Sys2Proof.Machine.execUnknownKind c s
  | .attach c => Sys2Proof.Machine.execAttach c s
  | .detach c => Sys2Proof.Machine.execDetach c s
  | .noticeMask c => Sys2Proof.Machine.execNoticeMask c s
  | .groupRead c => Sys2Proof.Machine.execGroupRead c s
  | .groupAdd c => Sys2Proof.Machine.execGroupAdd c s
  | .groupRemove c => Sys2Proof.Machine.execGroupRemove c s
  | .groupSet c => Sys2Proof.Machine.execGroupSet c s
  | .groupDisband c => Sys2Proof.Machine.execGroupDisband c s
  | .groupDigest c => Sys2Proof.Machine.execGroupDigest c s
  | .hold c => Sys2Proof.Machine.execHold c s
  | .release c => Sys2Proof.Machine.execRelease c s
  | .portRead c => Sys2Proof.Machine.execPortRead c s
  | .portSet c => Sys2Proof.Machine.execPortSet c s
  | .portClear c => Sys2Proof.Machine.execPortClear c s
  | .portGive c => Sys2Proof.Machine.execPortGive c s
  | .portClaim c => Sys2Proof.Machine.execPortClaim c s
  | .consoleSet c => Sys2Proof.Machine.execConsoleSet c s
  | .talkRequest c => Sys2Proof.Machine.execTalkRequest c s
  | .talkStart c => Sys2Proof.Machine.execTalkStart c s
  | .talkEnd c => Sys2Proof.Machine.execTalkEnd c s
  | .talkCancel c => Sys2Proof.Machine.execTalkCancel c s
  | .floorClear c => Sys2Proof.Machine.execFloorClear c s
  | .presetStore c => Sys2Proof.Machine.execPresetStore c s
  | .presetStoreCompletion => Sys2Proof.Machine.execPresetStoreCompletion s
  | .portsStore c => Sys2Proof.Machine.execPortsStore c s
  | .portsStoreCompletion => Sys2Proof.Machine.execPortsStoreCompletion s
  | .presetErase c => Sys2Proof.Machine.execPresetErase c s
  | .presetEraseCompletion => Sys2Proof.Machine.execPresetEraseCompletion s
  | .presetRead c => Sys2Proof.Machine.execPresetRead c s
  | .presetReadCompletion => Sys2Proof.Machine.execPresetReadCompletion s
  | .presetRecall c => Sys2Proof.Machine.execPresetRecall c s
  | .presetRecallCompletion => Sys2Proof.Machine.execPresetRecallCompletion s
  | .emergencyStatusAsserted p => Sys2Proof.Machine.execEmergencyStatusAsserted p s
  | .emergencyStatusReleased p => Sys2Proof.Machine.execEmergencyStatusReleased p s
  | .linkLoss p => Sys2Proof.Machine.execLinkLoss p s
  | .linkReturn p => Sys2Proof.Machine.execLinkReturn p s
  | .restartTimerExpiry p => Sys2Proof.Machine.execRestartTimerExpiry p s
  | .restartPulseEnd p => Sys2Proof.Machine.execRestartPulseEnd p s
  | .guardEnd p => Sys2Proof.Machine.execGuardEnd p s
  | .qualifiedCarrierYes p => Sys2Proof.Machine.execQualifiedCarrierYes p s
  | .qualifiedCarrierNo p => Sys2Proof.Machine.execQualifiedCarrierNo p s
  | .levelBlockEnd => Sys2Proof.Machine.execLevelBlockEnd s
  | .tdmFrame rx mics => Sys2Proof.Machine.execTdmFrame rx mics s
  | .transmitLimitExpiry p => Sys2Proof.Machine.execTransmitLimitExpiry p s
  | .carrierLimitExpiry p => Sys2Proof.Machine.execCarrierLimitExpiry p s
  | .cooldownExpiry p => Sys2Proof.Machine.execCooldownExpiry p s
  | .hangTimerExpiry g => Sys2Proof.Machine.execHangTimerExpiry g s
  | .grantWindowExpiry g => Sys2Proof.Machine.execGrantWindowExpiry g s
  | .preemptTimerExpiry g => Sys2Proof.Machine.execPreemptTimerExpiry g s
  | .dissolveTimerExpiry g => Sys2Proof.Machine.execDissolveTimerExpiry g s
  | .holdTimerExpiry g => Sys2Proof.Machine.execHoldTimerExpiry g s

end Sys2Proof.Machine
end

