-- ==== Sys2Proof/Safety.lean ====
section
/-!
DEFINITION. The words in which the statements about the part are made: requests that are accepted, what an answer or a run of
notices does to a controller port, what becomes of a group when its floor goes to a source or to FREE, the relations that say
what stays as it is, and the invariants.
-/

namespace Sys2Proof.Machine

/-! Requests (R135 to R137). -/

/-- The command that takes a request of kind `k` at port `c`. -/
def ReqKind.command (k : ReqKind) (c : CtlNo) : Instr :=
  match k with
  | .attach => .attach c | .detach => .detach c | .noticeMask => .noticeMask c
  | .groupRead => .groupRead c | .groupAdd => .groupAdd c | .groupRemove => .groupRemove c | .groupSet => .groupSet c
  | .groupDisband => .groupDisband c | .groupDigest => .groupDigest c | .hold => .hold c | .release => .release c
  | .portRead => .portRead c | .portSet => .portSet c | .portClear => .portClear c | .portGive => .portGive c
  | .portClaim => .portClaim c | .consoleSet => .consoleSet c | .talkRequest => .talkRequest c
  | .talkStart => .talkStart c | .talkEnd => .talkEnd c | .talkCancel => .talkCancel c | .floorClear => .floorClear c
  | .presetStore => .presetStore c | .presetRecall => .presetRecall c | .presetErase => .presetErase c
  | .presetRead => .presetRead c | .portsStore => .portsStore c

/-- A take at port `c` is possible and would take frame `f`: the oldest frame of the buffer, with a free unreserved entry
left for its response (R131, R135). -/
abbrev Part.offers (d : Part) (c : CtlNo) (f : List Byte) : Prop :=
  (d.ctl c).buffer.head? = some f ∧ (d.ctl c).outbound.length + (d.ctl c).reservations < 16

/-- A take at port `c` is possible, and frame `f`, of kind `k`, passes the acceptance checks 1 to 5 (R136). -/
abbrev Part.accepts (d : Part) (c : CtlNo) (k : ReqKind) (f : List Byte) : Prop :=
  d.offers c f ∧ frameCheckOk f = true ∧ ReqKind.ofByte (frameKind f) = some k ∧ k.lengthFits f = true ∧
    ((d.ctl c).attached = true ∨ k = .attach) ∧ d.loading = false

/-- Parameter byte `i` of a request frame, from byte 3 on (R162). -/
abbrev param (f : List Byte) (i : Nat) : Byte := (frameParams f).getD i 0

/-- The 16-bit parameter at bytes `i` and `i + 1`, high byte first (R160). -/
abbrev param16 (f : List Byte) (i : Nat) : Word := param f i ++ param f (i + 1)

/-- The response to frame `f` with a status and data: its kind code and its tag (R137). -/
def responseTo (f : List Byte) (st : Status) (data : List Byte) : OutEntry :=
  .response (frameKind f) (frameTag f) st data

/-- The part with the head frame of port `c` taken and answered at once: the frame is out of the buffer, its response is the
last entry of the queue, and the count of reservations is what it was (R135, R137). -/
def Part.answered (d : Part) (c : CtlNo) (f : List Byte) (st : Status) (data : List Byte) : Part :=
  d.modCtl c fun q =>
    { q with buffer := q.buffer.tail, outbound := q.outbound ++ [responseTo f st data] }

/-- The part with the head frame of port `c` taken and its response deferred: one more reservation (R137). -/
def Part.deferredAt (d : Part) (c : CtlNo) : Part :=
  d.modCtl c fun q => { q with buffer := q.buffer.tail, reservations := q.reservations + 1 }

/-- The part as a holder's request that names group `g` leaves its hold timer (R64). -/
def Part.renewed (d : Part) (c : CtlNo) (g : GroupNo) : Part :=
  d.modGroup g fun r => { r with holdTimer := if r.holdHolder = some c then some 240000 else r.holdTimer }

/-! Notices (R139). -/

/-- The port after a run of notices addressed to it, each admitted or dropped in its turn. -/
def CtlPort.receives (ns : List Notice) (q : CtlPort) : CtlPort := ns.foldl (fun q n => q.admitNotice n) q

/-- Every port after the notices addressed to it, given by recipient. -/
def Part.told (d : Part) (ns : CtlNo → List Notice) : Part :=
  { d with ctls := tmap (fun r q => q.receives (ns r)) d.ctls }

/-- The notice to the controllers of a set. -/
def toAll (rc : CtlNo → Bool) (n : Notice) : CtlNo → List Notice := fun r => if rc r then [n] else []

/-- What an event may do to a controller port it only sends notices to: notices are appended, the lost flag may become set,
and a detached port is left as it is (R139). -/
def CtlPort.Notified (q q' : CtlPort) : Prop :=
  (∃ ns : List Notice, q'.outbound = q.outbound ++ ns.map OutEntry.notice ∧
      (ns = [] ∨ q.attached = true ∧ q'.outbound.length + q'.reservations ≤ 16)) ∧
    (q.lost = true → q'.lost = true) ∧ (q.attached = false → q' = q) ∧
    q' = { q with outbound := q'.outbound, lost := q'.lost }

/-! The floor. -/

/-- A group with its dissolve timer as R50 has it, where its floor is FREE or not. -/
def GroupRec.timed (free : Bool) (r : GroupRec) : GroupRec :=
  { r with dissolveTimer :=
      if free = true ∧ r.members ≠ [] ∧ r.holdHolder = none ∧ r.settings.dissolve ≠ 0
      then some (r.dissolveTimer.getD (480000 * r.settings.dissolve)) else none }

/-- The floor record of a group whose floor `src` has been given, with the waiting list and the count that are left. -/
def FloorRec.givenTo (src : Source) (mark : Bool) (window : Nat) (ws : List Entry) (count : Nat) : FloorRec :=
  match src with
  | .port p =>
    { FloorRec.reset with state := .talk, holder := some (.port p), mark, waiting := ws, lowTurn := count }
  | .console c =>
    { FloorRec.reset with
      state := .pending, holder := some (.console c), mark, waiting := ws, lowTurn := count, windowTimer := some (8000 * window) }

/-- The waiting list and count that are left when the entry of `src` has left the list (R94, R97). -/
def listWithout (src : Source) (ws : List Entry) : List Entry := ws.filter fun e => e.source ≠ src
def countWith (ws : List Entry) (count : Nat) : Nat := if ws.any (fun e => e.srcClass = .low) then count else 0

/-- The floor record after the floor has passed on (R76, R77): to the winner of the grant decision, or to FREE. -/
def FloorRec.passed (window : Nat) (f : FloorRec) : FloorRec :=
  match grantDecision f.waiting f.lowTurn with
  | none => FloorRec.reset
  | some (e, n) =>
    FloorRec.givenTo e.source e.emergency window (listWithout e.source f.waiting)
      (countWith (listWithout e.source f.waiting) n)

/-- The audio samples, the level block and the layout store stay as they are. -/
def Part.SameRest (d t : Part) : Prop :=
  t.taken = d.taken ∧ t.transmit = d.transmit ∧ t.peaks = d.peaks ∧ t.blockFrames = d.blockFrames ∧
    t.slots = d.slots ∧ t.portsRecord = d.portsRecord ∧ t.storeOp = d.storeOp

/-- From `d` to `t` the floor of group `g` goes to the holder that record `f` names, or to FREE, and each controller is told
`ns`: the holder is granted, every other member receives a key order, or every member an unkey order; a console that was
holder is out, one that becomes holder is in; the dissolve timer follows; nothing else changes (R71, R72, R73, R76, R77, R81). -/
def Part.FloorGoes (d t : Part) (g : GroupNo) (f : FloorRec) (ns : CtlNo → List Notice) : Prop :=
  (∀ h, t.floor h = if h = g then f else d.floor h) ∧
  (∀ p, t.port p =
    if f.holder = some (.port p) then (d.port p).grant
    else if p ∈ (d.group g).members then (if f.holder = none then (d.port p).unkey else (d.port p).key)
    else d.port p) ∧
  (∀ h, t.group h = if h = g then (d.group g).timed (f.holder = none) else d.group h) ∧
  (∀ c, t.console c =
    if f.holder = some (.console c) then { d.console c with involvement := .holder g }
    else if (d.floor g).holder = some (.console c) then { d.console c with involvement := .none }
    else d.console c) ∧
  (∀ r, t.ctl r = (d.ctl r).receives (ns r)) ∧ d.SameRest t

/-- The FLOOR notice of record `f` to the recipients of group `g` (R89, R149). -/
def Part.floorNews (d : Part) (g : GroupNo) (f : FloorRec) (cause : FloorCause) : CtlNo → List Notice := fun r =>
  if g ∈ (d.console r).monitor ∨ (d.group g).holdHolder = some r then [.floor g f.state f.holder f.mark cause] else []

/-- The GRANT notice to the controller of the console that record `f` names as holder (R90). -/
def grantNews (g : GroupNo) (f : FloorRec) : CtlNo → List Notice := fun r =>
  if f.holder = some (.console r) then [.grant g] else []

/-- The LAPSE notice to the controller of the console that is floor holder (R90). -/
def Part.lapseNews (d : Part) (g : GroupNo) (cause : LapseCause) : CtlNo → List Notice := fun r =>
  if (d.floor g).holder = some (.console r) then [.lapse g cause] else []

/-- The LAPSE notices to the controllers of the consoles that wait, in list order (R80, R88, R91). -/
def Part.waiterNews (d : Part) (g : GroupNo) (cause : LapseCause) : CtlNo → List Notice := fun r =>
  ((d.floor g).waiting.filter fun e => e.source = .console r).map fun _ => .lapse g cause

/-- From `d` to `t` the whole floor of group `g` ends with no grant decision, as a clearing (R88) or the emptying of the group
(R80) ends it: the record is freed, every console that was holder or waiter is out, the dissolve timer follows, and each
controller is told `ns`. What becomes of the ports is said beside it. -/
def Part.FloorEnds (d t : Part) (g : GroupNo) (ns : CtlNo → List Notice) : Prop :=
  (∀ h, t.floor h = if h = g then FloorRec.reset else d.floor h) ∧
  (∀ h, t.group h = if h = g then (d.group g).timed true else d.group h) ∧
  (∀ c, t.console c =
    if (d.floor g).holder = some (.console c) ∨ (∃ e ∈ (d.floor g).waiting, e.source = .console c)
    then { d.console c with involvement := .none } else d.console c) ∧
  (∀ r, t.ctl r = (d.ctl r).receives (ns r)) ∧ d.SameRest t

/-- The notices of a whole floor that ends: LAPSE to the holder's and the waiters' controllers, and a FLOOR notice unless the
floor was FREE before (R80, R88, R91). -/
def Part.endNews (d : Part) (g : GroupNo) (lapse : LapseCause) (cause : FloorCause) : CtlNo → List Notice := fun r =>
  d.lapseNews g lapse r ++ (d.waiterNews g lapse r ++
    (if (d.floor g).state = .free then [] else d.floorNews g FloorRec.reset cause r))

/-- A PORT notice to the port's owner and to the hold holder of its group (R154). -/
def Part.portNews (d : Part) (p : PortNo) (st : PortState) (cause : PortCause) : CtlNo → List Notice := fun r =>
  if (d.port p).settings.owner = r ∨ ∃ g, d.groupOf p = some g ∧ (d.group g).holdHolder = some r then [.port p st cause]
  else []

/-! Radio ports (R10 to R18, R24). -/

/-- The time of a limit of `n` times 10 s, in frames; none for no limit (R24). -/
def limitFrames (n : Nat) : Timer := if n = 0 then none else some (80000 * n)

/-- The time of a tail guard of `n` times 50 ms, in frames; with a setting of 0 a guard that still runs stays as it is,
which is the model's choice (R12, log entry 10). -/
def guardAfter (n : Nat) (old : Timer) : Timer := if n = 0 then old else some (400 * n)

/-- The time of a restart timeout, in frames; none for OFF (R3, R8). -/
def timeoutFrames (code : Fin 6) : Option Nat := [none, some 4000, some 8000, some 16000, some 40000, some 80000].getD code.val none

/-- The restart phase and timer that a start of the restart timer leaves (R8). -/
def PortRec.restarted (r : PortRec) : PortRec :=
  match timeoutFrames r.settings.restartTimeout with
  | none => { r with restartPhase := .stopped, restartTimer := none }
  | some n => { r with restartPhase := .waiting, restartTimer := some n }

/-- A port out of service in which suppression holds (R11): no carrier, no run, no limit timer. -/
def PortRec.outOfService (st : PortState) (r : PortRec) : PortRec :=
  { r with
    state := st, carrier := false, runCount := 0, transmitTimer := none, carrierTimer := none
    cooldownTimer := if st = .cooldown then some (8000 * [1, 2, 5, 10, 20].getD r.settings.cooldown.val 0) else none }

/-- A port that comes back into service, or to OFFLINE, from a state of suppression (R7, R30, R33, R11): no carrier, and the
filter restarts unless something still suppresses it. -/
def PortRec.backTo (st : PortState) (r : PortRec) : PortRec :=
  { r with
    state := st, carrier := false, runCount := 0
    hysteresis := r.hysteresis && (st = .offline || r.guard.isSome || (st = .keyed && r.settings.duplex = .half))
    transmitTimer := if st = .keyed then limitFrames r.settings.transmitLimit else none
    carrierTimer := none
    cooldownTimer := none }

/-- What floor events may do to a port: its state, guard, limit timers, and what its filter holds (R16 to R19, R88). -/
def PortRec.FloorActed (r r' : PortRec) : Prop :=
  r' = { r with
    state := r'.state, carrier := r'.carrier, runCount := r'.runCount, hysteresis := r'.hysteresis, guard := r'.guard,
    transmitTimer := r'.transmitTimer, carrierTimer := r'.carrierTimer, cooldownTimer := r'.cooldownTimer } ∧
  (r.state = .offline ∨ r.state = .cooldown ∨ r.state = .latched → r' = r)

/-- What any event of the floors leaves as it is: every port's settings, link, restart, level and emergency status; every
group's layout, revision, settings and hold; every console's class and monitor set; the samples and the store. Controller
ports are sent notices and nothing else. -/
def Part.Quiet (d t : Part) : Prop :=
  (∀ p, (d.port p).FloorActed (t.port p)) ∧
  (∀ g, t.group g = { d.group g with dissolveTimer := (t.group g).dissolveTimer }) ∧
  (∀ c, t.console c = { d.console c with involvement := (t.console c).involvement }) ∧
  (∀ r, (d.ctl r).Notified (t.ctl r)) ∧ d.SameRest t

/-! Controller ports. -/

/-- The floor record without the entry of `src` (R94, R97). -/
def FloorRec.leftBy (src : Source) (f : FloorRec) : FloorRec :=
  { f with
    waiting := listWithout src f.waiting
    lowTurn := countWith (listWithout src f.waiting) f.lowTurn
    preemptTimer := if (listWithout src f.waiting).any (fun e => e.emergency) then f.preemptTimer else none }

/-- The part with every hold of controller `c` ended, each with its dissolve timer by its condition (R67, R50). -/
def Part.holdsEnded (d : Part) (c : CtlNo) : Part :=
  { d with groups := tmap (fun g r =>
      if r.holdHolder = some c then
        { r with holdHolder := none, holdTimer := none }.timed (decide ((d.floor g).state = FloorState.free))
      else r) d.groups }

/-- From `d` to `t` the floor involvement of console `c` ends by the reset of its controller (R86): as waiter it leaves the list;
as floor holder its place ends with no hang and the floor passes on, with GRANT and FLOOR notices of cause PORT-RESET (R89, R90). -/
def Part.ConsoleLeaves (d t : Part) (c : CtlNo) : Prop :=
  match (d.console c).involvement with
  | .none => t = d
  | .waiter g => t = (d.modFloor g (FloorRec.leftBy (.console c))).modConsole c fun r => { r with involvement := .none }
  | .holder g =>
    let f := (d.floor g).passed (d.group g).settings.window
    d.FloorGoes t g f fun r => grantNews g f r ++ d.floorNews g f .portReset r

/-- From `d` to `t` controller `c`'s port is reset and is `q` after it (R146): the port, the hold, the console's floor, the monitor
set, the store's response, and the CONTROLLER notice to the others where the port was attached. Nothing else changes. -/
def Part.PortResets (c : CtlNo) (q : CtlPort) (d t : Part) : Prop :=
  ∃ e : Part, ((d.modCtl c fun _ => q).holdsEnded c).ConsoleLeaves e c ∧
    let left := e.modConsole c fun r => { r with involvement := .none, monitor := [] }
    let store := d.storeOp.map fun op => if op.requester = some c then { op with responseWanted := false } else op
    t = { left with storeOp := store }.told
          fun r => if (d.ctl c).attached = true ∧ r ≠ c then [.controller c false] else []

/-- The part with the response to frame `f` at the tail of port `c`'s queue, in place of its reservation (R137). -/
def Part.responded (d : Part) (c : CtlNo) (f : List Byte) (st : Status) (data : List Byte) : Part :=
  d.modCtl c fun q => { q with reservations := q.reservations - 1, outbound := q.outbound ++ [responseTo f st data] }

/-! Claims (R73, R81, R92, R93, R98 to R105). -/

/-- The part with the entry of a claim at the tail of the waiting list (R92, R93). -/
def Part.joined (d : Part) (g : GroupNo) (e : Entry) : Part :=
  let d1 := d.modFloor g fun f => { f with waiting := f.waiting ++ [e] }
  match e.source with
  | .port _ => d1
  | .console c => d1.modConsole c fun r => { r with involvement := .waiter g }

/-- The time of a preempt delay, in frames (R40). -/
def delayFrames (code : Nat) : Nat := [0, 2000, 4000, 8000].getD code 16000

/-- The PORT notice of a radio talker that is cut, KEYED after the event, or the LAPSE notice of a console talker (R105). -/
def Part.cutNews (d : Part) (g : GroupNo) : CtlNo → List Notice := fun r =>
  match (d.floor g).holder with
  | some (.port p) => d.portNews p (d.port p).preempt.state .preempted r
  | _ => d.lapseNews g .preempted r

/-- From `d` to `t` the talker of group `g` is cut (R105): a radio talker is preempted, its controllers are told, and the floor
passes on. A grant to the console of `own`, whose request is being taken, is told by its response. -/
def Part.Cuts (d t : Part) (g : GroupNo) (own : Option CtlNo) : Prop :=
  let f := (d.floor g).passed (d.group g).settings.window
  let cut := match (d.floor g).holder with
    | some (.port p) => d.modPort p PortRec.preempt
    | _ => d
  cut.FloorGoes t g f fun r =>
    d.cutNews g r ++ ((if own = some r then [] else grantNews g f r) ++ d.floorNews g f .preempted r)

/-- From `d`, where the emergency entry of `src` stands in the list of group `g`, to `t`: the claim meets the floor as it is
(R100): at once against a routine pending grant or a parked place (R102, R103), after the preempt delay against a routine
talk (R104), and waiting against an emergency one. -/
def Part.EmergencyMeets (d t : Part) (g : GroupNo) (src : Source) (own : Option CtlNo) : Prop :=
  let f := d.floor g
  let taken := FloorRec.givenTo src true (d.group g).settings.window (listWithout src f.waiting)
    (countWith (listWithout src f.waiting) f.lowTurn)
  match f.state with
  | .free => t = d
  | .pending =>
    if f.mark = true then t = d
    else d.FloorGoes t g taken fun r => d.lapseNews g .preempted r ++ d.floorNews g taken .preempted r
  | .hang => d.FloorGoes t g taken (d.floorNews g taken .preempted)
  | .talk =>
    if f.mark = true ∨ f.preemptTimer ≠ none then t = d
    else if (d.group g).settings.preempt = 0 then d.Cuts t g own
    else t = d.modFloor g fun f => { f with preemptTimer := some (delayFrames (d.group g).settings.preempt) }

/-- A claim on a floor that is not FREE (R93): the entry waits, or the emergency claim meets the floor. -/
def Part.ClaimsBusy (d t : Part) (g : GroupNo) (e : Entry) (own : Option CtlNo) : Prop :=
  if e.emergency = true then (d.joined g e).EmergencyMeets t g e.source own else t = d.joined g e

/-- From `d` to `t` radio port `p` makes a floor request for group `g` (R73): granted from FREE, resumed by the parked holder,
otherwise a claim on a busy floor with the port's class and emergency status. -/
def Part.Requests (d t : Part) (g : GroupNo) (p : PortNo) : Prop :=
  let r := d.port p
  let f := d.floor g
  if f.state = .free then
    let f' := FloorRec.givenTo (.port p) r.emergency (d.group g).settings.window f.waiting f.lowTurn
    d.FloorGoes t g f' (d.floorNews g f' .granted)
  else if f.state = .hang ∧ f.holder = some (.port p) then
    let f' := { f with state := .talk, hangTimer := none, mark := r.emergency }
    t = ((d.modFloor g fun _ => f').modPort p PortRec.grant).told (d.floorNews g f' .resumed)
  else d.ClaimsBusy t g { source := .port p, srcClass := r.settings.srcClass, emergency := r.emergency } none

/-- From `d` to `t` radio port `p`'s place in the floor of group `g` ends because it is lost, unavailable or removed (R78, R80):
the floor passes on where it was floor holder, with no hang; its entry leaves the list where it waited. -/
def Part.LosesPlace (d t : Part) (g : GroupNo) (p : PortNo) (cause : FloorCause) : Prop :=
  let f := (d.floor g).passed (d.group g).settings.window
  if (d.floor g).holder = some (.port p) then
    d.FloorGoes t g f fun r => grantNews g f r ++ d.floorNews g f cause r
  else if (∃ e ∈ (d.floor g).waiting, e.source = .port p) then
    t = d.modFloor g (FloorRec.leftBy (.port p))
  else t = d

/-! Layout changes (R19, R41, R42, R45 to R47, R79, R80). -/

/-- The part with the revision of group `g` one higher and its dissolve timer as R50 has it, and every attached controller told
(R41, R42, R151). -/
def Part.revised (d : Part) (g : GroupNo) (cause : LayoutCause) : Part :=
  (d.modGroup g fun r => { r with revision := r.revision + 1 }.timed (decide ((d.floor g).state = FloorState.free))).told
    (toAll (fun r => (d.ctl r).attached) (.layout g ((d.group g).revision + 1) cause))

/-- From `d` to `t` port `p` is out of group `g` and the removal is reported (R19, R80): the port leaves KEYED or SOURCE for
IDLE; its place in the floor ends, or the whole floor where the group is now EMPTY. -/
def Part.Removes (d t : Part) (g : GroupNo) (p : PortNo) : Prop :=
  let d1 := (d.modGroup g fun r => { r with members := r.members.filter fun m => m ≠ p }).modPort p PortRec.removed
  if (d1.group g).members = [] then
    d1.FloorEnds t g (d.endNews g .layout .layout) ∧ (∀ q, t.port q = d1.port q)
  else d1.LosesPlace t g p .removed

/-- From `d`, where port `p` is a new member of group `g`, to `t` its join is reported (R19, R79): a busy floor gives its key order;
a port with a qualified carrier that is IDLE in a FREE group, or KEYED in a busy one, makes its floor request. -/
def Part.JoinReported (d t : Part) (g : GroupNo) (p : PortNo) : Prop :=
  let d1 := if (d.floor g).state = .free then d else d.modPort p PortRec.key
  if (d1.port p).carrier = true ∧
      (d1.port p).state = (if (d.floor g).state = .free then PortState.idle else .keyed)
  then d1.Requests t g p
  else t = d1

/-- From `d` to `t` port `p` joins group `g` at the tail and the join is reported (R38). -/
def Part.Joins (d t : Part) (g : GroupNo) (p : PortNo) : Prop :=
  (d.modGroup g fun r => { r with members := r.members ++ [p] }).JoinReported t g p

/-- From `d` to `t` every member leaves group `g` at once (R49, R52): the list is empty, each port leaves KEYED or SOURCE for
IDLE, and the whole floor ends. -/
def Part.Empties (d t : Part) (g : GroupNo) : Prop :=
  let d1 := d.modGroup g fun r => { r with members := [] }
  d1.FloorEnds t g (d.endNews g .layout .layout) ∧
    (∀ p, t.port p = if p ∈ (d.group g).members then (d.port p).removed else d.port p)

/-! Bytes of answers (R160 to R164). -/

/-- The number of a source: 0..23 a radio port, 24..29 a console (R160). -/
def Source.number : Source → Nat
  | .port p => p.val
  | .console c => 24 + c.val

/-- A number, or FFh where there is none (R161). -/
def orNone : Option Nat → Nat
  | none => 255
  | some n => n

/-- A 16-bit number as two bytes, high byte first (R160). -/
def twoBytes (n : Nat) : List Nat := [n / 256 % 256, n % 256]

/-- The group snapshot, as numbers below 256 in the order of R163: layout, floor, and counts as they stand. -/
def Part.snapshot (d : Part) (g : GroupNo) : List Nat :=
  let r := d.group g
  let f := d.floor g
  let left := match r.dissolveTimer with
    | none => 0
    | some n => (n + 7999) / 8000
  [g.val, if r.members = [] then 0 else 1] ++ twoBytes r.revision.toNat ++
    [r.settings.hang, r.settings.window, r.settings.preempt, r.settings.dissolve] ++
    [orNone (r.holdHolder.map Fin.val), if r.dissolveTimer = none then 0 else 1] ++ twoBytes left ++
    [match f.state with
      | .free => 0
      | .pending => 1
      | .talk => 2
      | .hang => 3] ++
    [orNone (f.holder.map Source.number), if f.mark = true then 1 else 0] ++
    [r.members.length] ++ r.members.map Fin.val ++ [f.waiting.length] ++
    f.waiting.map fun e => e.source.number + (if e.srcClass = .low then 32 else 0) + (if e.emergency = true then 64 else 0)

/-- Numbers as bytes. -/
def asBytes (ns : List Nat) : List Byte := ns.map (BitVec.ofNat 8)

/-- The serialization of one group for the digest, as numbers (R55). -/
def GroupRec.serial (g : GroupNo) (r : GroupRec) : List Nat :=
  [g.val] ++ twoBytes r.revision.toNat ++ [r.members.length] ++ r.members.map Fin.val ++
    [r.settings.hang, r.settings.window, r.settings.preempt, r.settings.dissolve]

/-- Group `g` is held by another controller than `c` (R43, R61, R62). -/
def Part.heldAgainst (d : Part) (g : GroupNo) (c : CtlNo) : Prop := ∃ k, (d.group g).holdHolder = some k ∧ k ≠ c

/-- The part with the head frame of port `c` taken, and the hold of group `g`, which it names, renewed where `c` holds it: what
the owner block of the request works on (R64, R135). -/
def Part.taking (d : Part) (c : CtlNo) (g : GroupNo) : Part := (d.deferredAt c).renewed c g

/-! What the radio events report (R2, R5, R6, R9 to R15, R74, R98). -/

/-- Qualification is suppressed (R11). -/
abbrev PortRec.Suppressed (r : PortRec) : Prop :=
  (r.settings.duplex = .half ∧ r.state = .keyed) ∨ r.state = .cooldown ∨ r.state = .latched ∨ r.state = .offline ∨ r.guard ≠ none

/-- The qualified carrier no and the run count 0, as suppression keeps them (R11). -/
def PortRec.quiet (r : PortRec) : PortRec := { r with carrier := false, runCount := 0 }

/-- A filter restart (R10). -/
def PortRec.refiltered (r : PortRec) : PortRec := { r with carrier := false, runCount := 0, hysteresis := false }

/-- The sixteen settings as the numbers of a port record (R160, R164). -/
def PortSettings.numbers (s : PortSettings) : List Nat :=
  [if s.srcClass = .high then 0 else 1,
   if s.duplex = .half then 0 else 1,
   match s.detect with
   | .line => 0
   | .level => 1
   | .either => 2,
   if s.polarity = .activeHigh then 0 else 1,
   s.attack.val, s.release.val, s.openThreshold, s.closeThreshold, s.tailGuard, s.transmitLimit, s.carrierLimit,
   if s.limitAction = .restore then 0 else 1,
   s.cooldown.val, s.restartTimeout.val, s.restartPulse,
   match s.trigger with
   | .never => 0
   | .on => 1
   | .off => 2
   | .both => 3]

/-- The number of a port state (R160). -/
def PortState.number (st : PortState) : Nat :=
  match st with
  | .offline => 0
  | .idle => 1
  | .keyed => 2
  | .source => 3
  | .cooldown => 4
  | .latched => 5

/-- The port record of a PORT-READ response (R20, R164). -/
def Part.portRecord (d : Part) (p : PortNo) : List Nat :=
  let r := d.port p
  [r.settings.owner.val] ++ r.settings.numbers ++
    [r.state.number, if r.linkUp = true then 1 else 0,
     match r.restartPhase with
     | .stopped => 0
     | .waiting => 1
     | .pulsing => 2,
     if r.carrier = true then 1 else 0, r.rawLevel, if r.guard = none then 0 else 1, if r.emergency = true then 1 else 0,
     orNone ((d.groupOf p).map Fin.val)]

/-- The state of a port that comes back into service, by the floor test (R5). -/
def Part.stateOnReturn (d : Part) (p : PortNo) : PortState :=
  match d.groupOf p with
  | none => .idle
  | some g => if (d.floor g).state = .free ∨ (d.floor g).holder = some (.port p) then .idle else .keyed

/-- From `d` to `t` the place of port `p` in the floor of its group, if it has one, ends (R78). -/
def Part.BecomesUnavailable (d t : Part) (p : PortNo) : Prop :=
  match d.groupOf p with
  | none => t = d
  | some g => d.LosesPlace t g p .sourceLost

/-- From `d` to `t` the talk of port `p`, if it is floor holder of its group, ends with no hang (R78). -/
def Part.SourceLost (d t : Part) (p : PortNo) : Prop :=
  match d.groupOf p with
  | none => t = d
  | some g => if (d.floor g).holder = some (.port p) then d.LosesPlace t g p .sourceLost else t = d

/-- From `d` to `t` the talk of group `g` ends normally (R74): the floor passes on at once for an emergency entry or a hang time
of 0, and otherwise hangs with its holder parked. -/
def Part.EndsTalk (d t : Part) (g : GroupNo) : Prop :=
  let hang := (d.group g).settings.hang
  if (∃ e ∈ (d.floor g).waiting, e.emergency = true) ∨ hang = 0 then
    let f := (d.floor g).passed (d.group g).settings.window
    d.FloorGoes t g f fun r => grantNews g f r ++ d.floorNews g f .ended r
  else
    let f := { d.floor g with state := .hang, mark := false, preemptTimer := none, hangTimer := some (800 * hang) }
    t = (d.modFloor g fun _ => f).told (d.floorNews g f .ended)

/-- From `d` to `t` port `p` acts on the drop of its carrier (R14): a talker enters IDLE and its talk ends normally; a waiter
leaves the list. -/
def Part.DropsCarrier (d t : Part) (p : PortNo) : Prop :=
  if (d.port p).state = .source then
    let d1 := d.modPort p PortRec.endTalk
    match d.groupOf p with
    | none => t = d1
    | some g => if (d.floor g).holder = some (.port p) then d1.EndsTalk t g else t = d1
  else
    match d.groupOf p with
    | none => t = d
    | some g =>
      if (∃ e ∈ (d.floor g).waiting, e.source = .port p) then t = d.modFloor g (FloorRec.leftBy (.port p)) else t = d

/-- The CARRIER notice to the port's owner, where the port's trigger allows it (R15, R155). -/
def Part.carrierNews (d : Part) (p : PortNo) (on : Bool) : CtlNo → List Notice := fun r =>
  let s := (d.port p).settings
  if r = s.owner ∧ (s.trigger = .both ∨ (on = true ∧ s.trigger = .on) ∨ (on = false ∧ s.trigger = .off))
  then [.carrier p on (d.port p).rawLevel] else []

/-- From `d` to `t` the arbiter is told that port `p` has its emergency status raised (R98): a routine entry of the port becomes
an emergency entry in its place and meets the floor; a running routine talk of the port is marked. -/
def Part.RaisesEmergency (d t : Part) (p : PortNo) : Prop :=
  match d.groupOf p with
  | none => t = d
  | some g =>
    let f := d.floor g
    if (∃ e ∈ f.waiting, e.source = .port p ∧ e.emergency = false) then
      (d.modFloor g fun f =>
        { f with waiting := f.waiting.map fun e => if e.source = .port p then { e with emergency := true } else e }).EmergencyMeets
        t g (.port p) none
    else if (d.port p).state = .source ∧ f.holder = some (.port p) ∧ f.mark = false then
      let f' := { f with mark := true, preemptTimer := none }
      t = (d.modFloor g fun _ => f').told (d.floorNews g f' .emergency)
    else t = d

/-- A port out of service by a keying limit, by its limit action (R27, R28). -/
def PortRec.limited (r : PortRec) : PortRec := r.outOfService (if r.settings.limitAction = .restore then .cooldown else .latched)

/-- A port that leaves KEYED with its tail guard (R12, log entry 10). -/
def PortRec.guarded (r : PortRec) : PortRec := { r with guard := guardAfter r.settings.tailGuard r.guard }

/-! The audio switch (R108 to R113). -/

/-- The number of the receive slot that is routed to group `g` (R110): its floor holder's, in PENDING and TALK. -/
def Part.routedSlot (d : Part) (g : GroupNo) : Option Nat :=
  match (d.floor g).state with
  | .free | .hang => none
  | .pending | .talk => (d.floor g).holder.map Source.number

/-- The sample taken last from receive slot `i`, 0 where there is no such slot. -/
def Part.takenAt (d : Part) (i : Nat) : Sample := d.taken.toList.getD i 0

/-- The level of a peak is `level` (R113). Full scale is 32767, and `d` decibels below it are compared as whole numbers: peak ≥
32767 × 10^(−d/20) is peak^20 × 10^d ≥ 32767^20. -/
def IsLevel (peak level : Nat) : Prop :=
  let reached (n : Nat) : Prop := 0 < peak ∧ 32767 ^ 20 ≤ peak ^ 20 * 10 ^ n
  (∃ n ≤ 63, reached n ∧ (∀ k < n, ¬ reached k) ∧ level = 63 - n) ∨ ((∀ n ≤ 63, ¬ reached n) ∧ level = 0)

/-- A run of commands, each of which answers a next state. -/
def Runs : List Instr → State → State → Prop
  | [], s, t => t = s
  | i :: is, s, t => ∃ m, exec i s = .next m ∧ Runs is m t

/-- The events of counts of frames, in the order in which a frame takes those of them that are due (log entry 24). -/
def countEvents : List Instr :=
  ((List.finRange 24).flatMap fun p =>
    [.emergencyStatusAsserted p, .emergencyStatusReleased p, .linkLoss p, .linkReturn p, .qualifiedCarrierYes p,
     .qualifiedCarrierNo p]) ++ [.levelBlockEnd]

/-- No count of frames has reached its length (R2, R6, R7, R10, R113). -/
def Part.NothingDue (d : Part) : Prop :=
  d.blockFrames < 80 ∧
  ∀ p, (d.port p).emergencyCount < 160 ∧ (d.port p).linkCount < (if (d.port p).linkUp = true then 160 else 100) ∧
    ((d.port p).runCount = 0 ∨ (d.port p).runCount < (d.port p).runLength)

/-- A run of the filter has reached its length (R10). -/
abbrev PortRec.RunEnds (r : PortRec) : Prop := r.runCount ≠ 0 ∧ r.runLength ≤ r.runCount

/-- A timer one frame later. -/
def Timer.earlier (t : Timer) : Timer := t.map (· - 1)

/-- The raw detect of a frame whose carrier-detect line is high or low (R1, R9). -/
def PortRec.detects (r : PortRec) (high : Bool) : Bool :=
  let line := if r.settings.polarity = .activeHigh then high else !high
  match r.settings.detect with
  | .line => line
  | .level => r.hysteresis
  | .either => line || r.hysteresis

/-- Attack and release codes as frames (R10). -/
def attackFrames (code : Fin 5) : Nat := [0, 160, 320, 640, 1280].getD code.val 0

/-! The layout store (R118 to R126, R165). -/

/-- The response of a finished operation to its requester, if it is still wanted (R128, R137). -/
def Part.answersFor (d : Part) (op : StoreOp) (kind : Byte) (st : Status) (data : List Byte) : Part :=
  match op.requester with
  | none => d
  | some c =>
    if op.responseWanted = true then
      d.modCtl c fun q =>
        { q with reservations := q.reservations - 1, outbound := q.outbound ++ [.response kind op.tag st data] }
    else d

/-- The numbers of a preset (R165). -/
def presetNumbers (pre : Preset) : List Nat :=
  pre.length :: pre.flatMap fun e =>
    [e.group.val, e.settings.hang + 32 * e.settings.preempt, e.settings.window, e.settings.dissolve, e.members.length] ++
      e.members.map Fin.val

/-- The groups a preset names, and the others that lose a port to them (R125). -/
def Part.namedBy (pre : Preset) (g : GroupNo) : Prop := ∃ e ∈ pre, e.group = g
def Part.losesTo (d : Part) (pre : Preset) (g : GroupNo) : Prop :=
  ¬ Part.namedBy pre g ∧ ∃ e ∈ pre, ∃ p ∈ e.members, p ∈ (d.group g).members

/-- From `d` to `t`, one after the other for the items of a list. -/
def Part.Chain {α : Type} (R : α → Part → Part → Prop) : List α → Part → Part → Prop
  | [], d, t => t = d
  | a :: l, d, t => ∃ m, R a d m ∧ Chain R l m t

/-- From `d` to `t` the floor of group `g` is cleared (R88): the whole floor ends, a radio talker is stripped, the members are
unkeyed. -/
def Part.FloorCleared (d t : Part) (g : GroupNo) (lapse : LapseCause) (cause : FloorCause) : Prop :=
  d.FloorEnds t g (d.endNews g lapse cause) ∧
  ∀ p, t.port p =
    let r := if (d.floor g).holder = some (.port p) then (d.port p).strip else d.port p
    if p ∈ (d.group g).members then r.unkey else r

/-- Pass 2 for a losing group (R125): the ports that the preset places leave it in member-list order, then its revision. -/
def Part.RecallLoses (pre : Preset) (g : GroupNo) (d t : Part) : Prop :=
  ∃ m : Part,
    Chain (fun p d t => d.Removes t g p) ((d.group g).members.filter fun p => decide (∃ e ∈ pre, p ∈ e.members)) d m ∧
    t = m.revised g .recall

/-- Pass 2 for a named group (R125): the members that its entry does not list leave it in member-list order. -/
def Part.RecallTrims (e : GroupEntry) (d t : Part) : Prop :=
  Chain (fun p d t => d.Removes t e.group p) ((d.group e.group).members.filter fun p => decide (p ∉ e.members)) d t

/-- Pass 3 for a named group (R125, R126): members and settings as the entry has them, the joins reported in the entry's order,
then the revision, with a dissolve timer that starts from its full time. -/
def Part.RecallWrites (e : GroupEntry) (d t : Part) : Prop :=
  ∃ m : Part,
    Chain (fun p d t => d.JoinReported t e.group p) (e.members.filter fun p => decide (p ∉ (d.group e.group).members))
      (d.modGroup e.group fun r => { r with members := e.members, settings := e.settings, dissolveTimer := none }) m ∧
    t = m.revised e.group .recall

/-- From `d` to `t` a recall is applied, in its three passes (R125): the named floors cleared with cause LAYOUT in entry order; the
losing groups in increasing number, then the named ones in entry order, without the ports that leave; the named groups
rewritten in entry order. -/
def Part.Recalls (pre : Preset) (losing : List GroupNo) (d t : Part) : Prop :=
  ∃ a b c : Part,
    Chain (fun g d t => d.FloorCleared t g .layout .layout) (pre.map fun e => e.group) d a ∧
    Chain (RecallLoses pre) losing a b ∧ Chain RecallTrims pre b c ∧ Chain RecallWrites pre c t

/-- A preset as PRESET-STORE makes it (R38, R40, R118): each group once, each member once, one place for each port, legal
settings. -/
def Preset.Sound (pre : Preset) : Prop :=
  (pre.map fun e => e.group).Nodup ∧ (pre.flatMap fun e => e.members).Nodup ∧ ∀ e ∈ pre, e.settings.legal = true

/-! Invariants: what the spec says always holds of the part's records. -/

/-- Controller ports (R131, R132, R134, R135, R137, R138, R143, R145): the capacities; a reservation for the pending operation's
wanted response and for nothing else; a partial frame only in a WRITE cycle; an entry behind every READ cycle that shifts one
out; LOST always in the mask; no cycle is served while the port-reset line is asserted. -/
def Part.QueuesSound (d : Part) : Prop :=
  (∀ op, d.storeOp = some op → op.kind = .startUpLoad → op.requester = none) ∧
  ∀ c,
    (d.ctl c).buffer.length ≤ 2 ∧ (d.ctl c).outbound.length + (d.ctl c).reservations ≤ 16 ∧
    ((∃ op, d.storeOp = some op ∧ op.requester = some c ∧ op.responseWanted = true) → (d.ctl c).reservations = 1) ∧
    ((∀ op, d.storeOp = some op → op.requester = some c → op.responseWanted = false) → (d.ctl c).reservations = 0) ∧
    ((d.ctl c).cycle ≠ .write → (d.ctl c).frame = none) ∧ ((d.ctl c).cycle = .read true → (d.ctl c).outbound ≠ []) ∧
    .lost ∈ (d.ctl c).mask ∧ ((d.ctl c).resetLine = true → (d.ctl c).cycle = .closed ∨ (d.ctl c).cycle = .ignored)

/-- The layout (R38, R40, R118, R120, R122, R127, R129): a member list names no port twice, no port is in two of them, settings are
legal, every stored or pending preset is sound, a slot that is being written or erased stands EMPTY, and no group is formed
while the start-up load runs. -/
def Part.LayoutSound (d : Part) : Prop :=
  (∀ g, (d.group g).members.Nodup ∧ (d.group g).settings.legal = true) ∧
  (∀ g h p, p ∈ (d.group g).members → p ∈ (d.group h).members → g = h) ∧
  (∀ i pre, tget d.slots i = some pre → Preset.Sound pre) ∧
  (∀ op slot pre, d.storeOp = some op → op.kind = .presetStore slot pre → Preset.Sound pre ∧ tget d.slots slot = none) ∧
  (∀ op slot, d.storeOp = some op → op.kind = .presetErase slot → tget d.slots slot = none) ∧
  (d.loading = true → ∀ g, d.group g = GroupRec.reset)

/-- Radio ports (R2, R3, R6 to R8, R10, R11, R24, R113, R121, R127, R129): legal settings here and in the store; no carrier and no
run under suppression; no count past its length, nor the level block past its 80 frames; each limit timer only in its state;
OFFLINE or LATCHED while the link is DOWN and not OFFLINE while it is UP; the restart timer by its phase, and only while the link
is DOWN; all OFFLINE while the start-up load runs; the record EMPTY while it is being written. -/
def Part.PortsSound (d : Part) : Prop :=
  (∀ p,
    let r := d.port p
    r.settings.legal = true ∧ (r.Suppressed → r.carrier = false ∧ r.runCount = 0) ∧
    (r.state ≠ .keyed → r.transmitTimer = none) ∧ (r.state ≠ .source → r.carrierTimer = none) ∧
    (r.cooldownTimer ≠ none ↔ r.state = .cooldown) ∧
    (r.linkUp = false → r.state = .offline ∨ r.state = .latched) ∧ (r.linkUp = true → r.state ≠ .offline) ∧
    (r.restartPhase = .stopped ↔ r.restartTimer = none) ∧ (r.restartPhase ≠ .stopped → r.linkUp = false) ∧
    r.emergencyCount ≤ 160 ∧ r.linkCount ≤ (if r.linkUp = true then 160 else 100) ∧ r.runCount ≤ r.runLength ∧
    r.rawLevel ≤ 63 ∧ tget d.peaks p ≤ 32767 ∧ (d.loading = true → r.linkUp = false ∧ r.state = .offline)) ∧
  d.blockFrames ≤ 80 ∧ (∀ es p, d.portsRecord = some es → (tget es p).legal = true) ∧
  (∀ op es, d.storeOp = some op → op.kind = .portsStore es → d.portsRecord = none ∧ ∀ p, (tget es p).legal = true)

/-- One floor record (R70, R97, R100): what each floor state says of holder, mark, timers and waiting list. A routine talk runs
its preempt timer exactly while an emergency entry waits, and a routine pending grant or parked place has none waiting. -/
def FloorRec.Sound (f : FloorRec) : Prop :=
  ((∀ e ∈ f.waiting, e.srcClass ≠ .low) → f.lowTurn = 0) ∧
  match f.state with
  | .free => f = FloorRec.reset
  | .pending =>
    (∃ c, f.holder = some (.console c)) ∧ f.hangTimer = none ∧ f.windowTimer ≠ none ∧ f.preemptTimer = none ∧
      (f.mark = false → ∀ e ∈ f.waiting, e.emergency = false)
  | .talk =>
    f.holder ≠ none ∧ f.hangTimer = none ∧ f.windowTimer = none ∧
      (f.preemptTimer ≠ none ↔ f.mark = false ∧ ∃ e ∈ f.waiting, e.emergency = true)
  | .hang =>
    f.holder ≠ none ∧ f.mark = false ∧ f.hangTimer ≠ none ∧ f.windowTimer = none ∧ f.preemptTimer = none ∧
      (∀ e ∈ f.waiting, e.emergency = false)

/-- Floors and consoles (R39, R70, R71): every record sound, an EMPTY group's floor FREE, and each console's floor involvement
the place it has. -/
def Part.FloorsSound (d : Part) : Prop :=
  (∀ g, (d.floor g).Sound ∧ ((d.group g).members = [] → (d.floor g).state = .free)) ∧
  ∀ c g,
    ((d.console c).involvement = .holder g ↔ (d.floor g).holder = some (.console c)) ∧
    ((d.console c).involvement = .waiter g ↔ ∃ e ∈ (d.floor g).waiting, e.source = .console c)

/-- Holds and dissolve timers (R50, R56): a hold with its timer, one for each controller and only of an attached one; the
dissolve timer runs exactly while its condition holds. -/
def Part.HoldsSound (d : Part) : Prop :=
  (∀ g,
    ((d.group g).holdTimer = none ↔ (d.group g).holdHolder = none) ∧
    ((d.group g).dissolveTimer ≠ none ↔
      (d.group g).members ≠ [] ∧ (d.floor g).state = .free ∧ (d.group g).holdHolder = none ∧
        (d.group g).settings.dissolve ≠ 0)) ∧
  (∀ g h c, (d.group g).holdHolder = some c → (d.group h).holdHolder = some c → g = h) ∧
  (∀ g c, (d.group g).holdHolder = some c → (d.ctl c).attached = true)

/-- The radio ports follow the floors (R5, R13, R38, R73, R92): SOURCE exactly as talker; a port that is floor holder or waits is
a member, parked ones IDLE and waiting ones KEYED with a carrier; a KEYED or IDLE port as the floor test has it; and no source
waits twice. -/
def Part.PortsFollow (d : Part) : Prop :=
  (∀ p, (d.port p).state = .source ↔ ∃ g, (d.floor g).state = .talk ∧ (d.floor g).holder = some (.port p)) ∧
  (∀ g p, (d.floor g).holder = some (.port p) →
    p ∈ (d.group g).members ∧ ((d.floor g).state = .hang → (d.port p).state = .idle)) ∧
  (∀ g p, (∃ e ∈ (d.floor g).waiting, e.source = .port p) →
    p ∈ (d.group g).members ∧ (d.port p).state = .keyed ∧ (d.port p).carrier = true) ∧
  (∀ p, (d.port p).state = .keyed → d.stateOnReturn p = .keyed) ∧
  (∀ p, (d.port p).state = .idle → d.stateOnReturn p = .idle) ∧
  (∀ g, ((d.floor g).waiting.map fun e => e.source).Nodup)

end Sys2Proof.Machine
end

