-- ==== Sys2Proof/Certificates/Slice0/Obligations.lean ====
section
/-!
DEFINITION. The statements about the part that are to be proved, family by family in the order of the opcode table.
In every one, `{ s with part := t }` also says that the command leaves the queue of commands as it was.
-/

open Sys2Proof Sys2Proof.Machine

/-! ## The queue, reset, start-up -/

/-- A step runs the command at the front of the queue on the rest. With an empty queue the part idles, which is the model's
choice (log entry 13). -/
def Obligations.StepTakesTheFront : Prop :=
  (∀ (i : Instr) (rest : List Instr) (s : State),
    step { s with pending := i :: rest } = exec i { s with pending := rest }) ∧
  (∀ s : State, s.pending = [] → step s = .next s)

/-- The values after a device reset (R3, R4, R24, R37, R70, R71, R108, R113, R114, R119, R131). That the slots and the
port-settings record are EMPTY is the factory's state (R117, log entry 14). -/
def Obligations.ResetValues : Prop :=
  let d := State.reset.part
  (∀ p : PortNo,
    (d.port p).settings =
      { owner := ⟨p.val / 4, by omega⟩, srcClass := .high, duplex := .half, detect := .line, polarity := .activeHigh,
        attack := 1, release := 4, openThreshold := 40, closeThreshold := 34, tailGuard := 4, transmitLimit := 12,
        carrierLimit := 18, limitAction := .restore, cooldown := 2, restartTimeout := 0, restartPulse := 5,
        trigger := .never } ∧
    (d.port p).state = .offline ∧ (d.port p).linkUp = false ∧ (d.port p).linkCount = 0 ∧
    (d.port p).restartPhase = .stopped ∧ (d.port p).restartTimer = none ∧ (d.port p).carrier = false ∧
    (d.port p).runCount = 0 ∧ (d.port p).hysteresis = false ∧ (d.port p).rawLevel = 0 ∧ (d.port p).guard = none ∧
    (d.port p).emergency = false ∧ (d.port p).emergencyCount = 0 ∧ (d.port p).transmitTimer = none ∧
    (d.port p).carrierTimer = none ∧ (d.port p).cooldownTimer = none ∧ d.groupOf p = none) ∧
  (∀ g : GroupNo,
    d.group g = { members := [], revision := 0, settings := { hang := 10, window := 3, preempt := 2, dissolve := 0 },
                  holdHolder := none, holdTimer := none, dissolveTimer := none } ∧
    d.floor g = { state := .free, holder := none, mark := false, waiting := [], lowTurn := 0, hangTimer := none,
                  windowTimer := none, preemptTimer := none }) ∧
  (∀ c : CtlNo,
    d.console c = { involvement := .none, srcClass := .high, monitor := [] } ∧
    (d.ctl c).attached = false ∧ (d.ctl c).frame = none ∧ (d.ctl c).buffer = [] ∧ (d.ctl c).outbound = [] ∧
    (d.ctl c).reservations = 0 ∧ (d.ctl c).lost = false ∧ (d.ctl c).overrun = false ∧ (d.ctl c).mode = .single ∧
    (d.ctl c).polarity = .activeLow ∧
    (∀ k : NoticeKind, k ∈ (d.ctl c).mask ↔ k ≠ .carrier)) ∧
  (∀ i : TdmSlot, tget d.transmit i = 0) ∧ (∀ p : PortNo, tget d.peaks p = 0) ∧ d.blockFrames = 0 ∧
  d.storeState = .loading ∧ (∀ i : SlotNo, tget d.slots i = none) ∧ d.portsRecord = none ∧ State.reset.pending = []

/-- A device reset (R127, R147): every block at its reset values, the link cycles abandoned, the start-up load begun, the
non-volatile memory as it stands. Four clauses are the model's choice: the port-reset lines keep their levels (log entry 12); the
rest of a selection whose cycle is abandoned is filler (log entry 25); the time that is left of the load begins at the bound (log
entry 15, inside `storeOp`); and the samples taken and the length of a run, which the rules give no value for reset, become 0 (log
entry 16, `taken` and the `runLength` inside `ports`). -/
def Obligations.DeviceResetClearsAll : Prop :=
  ∀ s : State, ∃ t : Part, exec .deviceReset s = .next { s with part := t } ∧
    t.ports = State.reset.part.ports ∧ t.groups = State.reset.part.groups ∧ t.floors = State.reset.part.floors ∧
    t.consoles = State.reset.part.consoles ∧ t.taken = State.reset.part.taken ∧ t.transmit = State.reset.part.transmit ∧
    t.peaks = State.reset.part.peaks ∧ t.blockFrames = 0 ∧ t.storeOp = State.reset.part.storeOp ∧
    (∀ c, t.ctl c =
      { State.reset.part.ctl c with
        resetLine := (s.part.ctl c).resetLine
        cycle := if (s.part.ctl c).cycle = .closed then .closed else .ignored }) ∧
    t.slots = s.part.slots ∧ t.portsRecord = s.part.portsRecord

/-- The end of the start-up load (R8, R129): the port entries of a VALID record, the groups of preset 0 at revision 1 with
their dissolve timers, the store IDLE, no notice. The premises are what holds while the load runs. -/
def Obligations.LoadCompletionFormsTheLayout : Prop :=
  ∀ s : State, s.part.loading = true → (∀ g, s.part.group g = State.reset.part.group g) →
    (∀ g, (s.part.floor g).state = .free) → (∀ p, (s.part.port p).linkUp = false) →
    (∀ pre, tget s.part.slots 0 = some pre → (pre.map fun e => e.group).Nodup) →
    ∃ t : Part, exec .startUpLoadCompletion s = .next { s with part := t } ∧
      (∀ p, t.port p =
        match s.part.portsRecord with
        | none => s.part.port p
        | some es =>
          match timeoutFrames (tget es p).restartTimeout with
          | none => { s.part.port p with settings := tget es p }
          | some n => { s.part.port p with settings := tget es p, restartPhase := .waiting, restartTimer := some n }) ∧
      (∀ pre e, tget s.part.slots 0 = some pre → e ∈ pre → e.members ≠ [] →
        t.group e.group =
          { members := e.members, revision := 1, settings := e.settings, holdHolder := none, holdTimer := none,
            dissolveTimer := if e.settings.dissolve = 0 then none else some (480000 * e.settings.dissolve) }) ∧
      (∀ g, (∀ pre, tget s.part.slots 0 = some pre → ∀ e ∈ pre, e.group = g → e.members = []) →
        t.group g = s.part.group g) ∧
      t.storeState = .idle ∧ t.floors = s.part.floors ∧ t.consoles = s.part.consoles ∧ t.ctls = s.part.ctls ∧
      t.taken = s.part.taken ∧ t.transmit = s.part.transmit ∧ t.peaks = s.part.peaks ∧
      t.blockFrames = s.part.blockFrames ∧ t.slots = s.part.slots ∧ t.portsRecord = s.part.portsRecord

/-! ## The controller port and its link -/

/-- The port-reset line asserted (R50, R67, R86, R89, R128, R145, R146): the port at its reset values with its cycle abandoned, the
hold and the console's place in a floor ended, the floor passed on, the others told. And released: the port stays as it is and
its link cycles are served again (R145). Where the port stays selected, the rest of the selection is filler after the release:
R138 says so of a READ cycle, and that it is so of the other abandoned cycles is the model's choice (log entry 25). -/
def Obligations.PortResetLineResetsThePort : Prop :=
  ∀ (c : CtlNo) (s : State),
    let q : CtlPort :=
      { State.reset.part.ctl c with
        resetLine := true, cycle := if (s.part.ctl c).cycle = .closed then .closed else .ignored }
    (∃ t : Part, exec (.portResetAsserted c) s = .next { s with part := t } ∧ t.ctl c = q ∧ Part.PortResets c q s.part t) ∧
    exec (.portResetReleased c) s = .next { s with part := s.part.modCtl c fun q => { q with resetLine := false } }

/-- DIRECTION_BYTE (R132, R138, R145, R167): at the select the status byte is what the part offers; at the completion the
overrun flag becomes clear, and the cycle goes on as WRITE, as READ with the head entry or the empty-frame marker, or is
ignored. While the port-reset line is asserted a select is ignored: no cycle begins by it, and that the output carries filler
where the port is still selected at the release is the model's choice (log entry 25). The two moments are one command with a
part (log entry 4). -/
def Obligations.DirectionByteDirectsTheCycle : Prop :=
  ∀ (c : CtlNo) (s : State),
    ((s.part.ctl c).resetLine = false → (s.part.ctl c).cycle = .closed →
      exec (.directionByte c .select) s =
        .next { s with part := s.part.modCtl c fun q =>
          { q with cycle := .direction, offered := [s.part.statusByte c] } }) ∧
    ((s.part.ctl c).resetLine = false → (s.part.ctl c).cycle = .direction →
      exec (.directionByte c (.complete 0x3C)) s =
        .next { s with part := s.part.modCtl c fun q => { q with overrun := false, cycle := .write, frame := none } }) ∧
    ((s.part.ctl c).resetLine = false → (s.part.ctl c).cycle = .direction →
      exec (.directionByte c (.complete 0xC3)) s =
        .next { s with part := s.part.modCtl c fun q =>
          { q with overrun := false, cycle := .read (!q.outbound.isEmpty),
                   offered := q.offered ++ (match q.outbound with
                     | [] => [0x00]
                     | e :: _ => e.bytes) } }) ∧
    (∀ code : Byte, code ≠ 0x3C → code ≠ 0xC3 →
      (s.part.ctl c).resetLine = false → (s.part.ctl c).cycle = .direction →
      exec (.directionByte c (.complete code)) s =
        .next { s with part := s.part.modCtl c fun q => { q with overrun := false, cycle := .ignored } }) ∧
    (∀ part, (s.part.ctl c).resetLine = true → (s.part.ctl c).cycle ≠ .closed → exec (.directionByte c part) s = .next s) ∧
    (∀ part, (s.part.ctl c).resetLine = true → (s.part.ctl c).cycle = .closed →
      exec (.directionByte c part) s =
        .next { s with part := s.part.modCtl c fun q => { q with cycle := .ignored, offered := [] } })

/-- The fields of the status byte (R133, R167): the free buffer entries or OVERRUN (3), the outbound entries or STARTING (31),
the lost flag. Reservations do not enter it. -/
def Obligations.StatusByteFields : Prop :=
  ∀ (d : Part) (c : CtlNo), (d.ctl c).buffer.length ≤ 2 → (d.ctl c).outbound.length ≤ 16 →
    ((d.statusByte c).extractLsb' 6 2).toNat =
      (if (d.ctl c).overrun = true then 3 else 2 - (d.ctl c).buffer.length) ∧
    ((d.statusByte c).extractLsb' 1 5).toNat =
      (if d.storeState = .loading then 31 else (d.ctl c).outbound.length) ∧
    (d.statusByte c).getLsbD 0 = (d.ctl c).lost

/-- FRAME_COMPLETION (R134): with the bytes received before them, the bytes that arrive in a WRITE cycle reach the declared
length: the frame enters the buffer if an entry is free and otherwise is discarded with the overrun flag set; bytes after it
are ignored. A declared length outside 5 to 96 discards the cycle; fewer bytes stay in progress; outside a WRITE cycle
nothing is received. R134 acts byte by byte: that one command brings a run of bytes, and so may bring too few of them, a bad
declared length, or bytes behind a complete frame, is the model's choice (log entry 5). -/
def Obligations.FrameCompletionKeepsOrDrops : Prop :=
  ∀ (c : CtlNo) (s : State) (bytes extra f : List Byte), (s.part.ctl c).resetLine = false →
    ((s.part.ctl c).cycle = .write → (s.part.ctl c).frame.getD [] ++ bytes = f ++ extra →
      ((s.part.ctl c).frame.getD []).length < f.length → 5 ≤ f.length → f.length ≤ 96 → (f.getD 0 0).toNat = f.length →
      exec (.frameCompletion c bytes) s =
        .next { s with part := s.part.modCtl c fun q =>
          if q.buffer.length < 2 then { q with frame := none, cycle := .ignored, buffer := q.buffer ++ [f] }
          else { q with frame := none, cycle := .ignored, overrun := true } }) ∧
    ((s.part.ctl c).cycle = .write → (s.part.ctl c).frame = none → bytes ≠ [] →
      ((bytes.getD 0 0).toNat < 5 ∨ 96 < (bytes.getD 0 0).toNat) →
      exec (.frameCompletion c bytes) s =
        .next { s with part := s.part.modCtl c fun q => { q with frame := none, cycle := .ignored } }) ∧
    ((s.part.ctl c).cycle = .write → (s.part.ctl c).frame.getD [] ++ bytes = f → bytes ≠ [] →
      5 ≤ (f.getD 0 0).toNat → (f.getD 0 0).toNat ≤ 96 → f.length < (f.getD 0 0).toNat →
      exec (.frameCompletion c bytes) s = .next { s with part := s.part.modCtl c fun q => { q with frame := some f } }) ∧
    ((s.part.ctl c).cycle ≠ .write → exec (.frameCompletion c bytes) s = .next s)

/-- LINK_CYCLE_END (R132, R134, R138): the cycle closes, a frame in progress is discarded, the queue keeps its entries, and the
overrun flag is what it was. REMOVAL (R138, R140): the head entry leaves the queue; with the lost-notice flag set a LOST notice
takes the freed entry and the flag becomes clear. Where no entry is being shifted out, as with the empty-frame marker and in the
rest of a cycle, nothing is removed. -/
def Obligations.CycleEndAndRemoval : Prop :=
  ∀ (c : CtlNo) (s : State),
    exec (.linkCycleEnd c) s =
      .next { s with part := s.part.modCtl c fun q => { q with frame := none, cycle := .closed, offered := [] } } ∧
    (∀ (e : OutEntry) (rest : List OutEntry), (s.part.ctl c).cycle = .read true → (s.part.ctl c).outbound = e :: rest →
      exec (.removal c) s =
        .next { s with part := s.part.modCtl c fun q =>
          { q with
            outbound := if q.lost = true then rest ++ [.notice .lost] else rest, lost := false, cycle := .ignored } }) ∧
    ((s.part.ctl c).cycle ≠ .read true → exec (.removal c) s = .next s)

/-- The admission of one notice at one port, by the four tests in their order (R139). -/
def Obligations.AdmissionTests : Prop :=
  ∀ (n : Notice) (q : CtlPort),
    (q.attached = false → q.admitNotice n = q) ∧
    (q.attached = true → n.kind ∉ q.mask → n.kind ≠ .lost → q.admitNotice n = q) ∧
    (q.attached = true → (n.kind ∈ q.mask ∨ n.kind = .lost) → 16 ≤ q.outbound.length + q.reservations →
      q.admitNotice n = { q with lost := true }) ∧
    (q.attached = true → (n.kind ∈ q.mask ∨ n.kind = .lost) → q.outbound.length + q.reservations < 16 →
      q.admitNotice n = { q with outbound := q.outbound ++ [.notice n] })

/-- The output lines. ATTN and RDY, and the level at which a line of a controller port is asserted (R141). The data output: not
driven while the port is not selected, nor while the port-reset line is asserted (R145); else the bytes that the part offers, and
filler behind them (R138, R167). The key output in KEYED (R5) and the restart output while a restart pulse runs (R1, R8). How
the offered bytes are kept is the model's choice (log entry 7). -/
def Obligations.AttentionAndReadyLines : Prop :=
  (∀ q : CtlPort,
    (q.attn = true ↔ q.attached = true ∧ q.outbound ≠ []) ∧
    (q.rdy = true ↔ q.attached = true ∧ q.mode = .dual ∧ q.buffer.length < 2) ∧
    (∀ asserted, q.lineHigh asserted = if q.polarity = .activeHigh then asserted else !asserted) ∧
    (q.cycle = .closed ∨ q.resetLine = true → ∀ k, q.dataOut k = none) ∧
    (q.cycle ≠ .closed → q.resetLine = false →
      (∀ k b, q.offered[k]? = some b → q.dataOut k = some b) ∧ ∀ k, q.offered.length ≤ k → q.dataOut k = some 0xFF)) ∧
  ∀ r : PortRec, (r.keyLine = true ↔ r.state = .keyed) ∧ (r.restartLine = true ↔ r.restartPhase = .pulsing)

/-- The acceptance checks 1 to 5, in their order, at the take of a request of any kind (R135, R136): the response of the first
that fails, and nothing else changes. UNKNOWN_KIND is the take of a frame whose kind code names no request kind. -/
def Obligations.AcceptanceChecksInOrder : Prop :=
  ∀ (c : CtlNo) (s : State) (f : List Byte), s.part.offers c f →
    (∀ k : ReqKind, ReqKind.ofByte (frameKind f) = some k →
      (frameCheckOk f = false →
        exec (k.command c) s = .next { s with part := s.part.answered c f .frameCheck [] }) ∧
      (frameCheckOk f = true → k.lengthFits f = false →
        exec (k.command c) s = .next { s with part := s.part.answered c f .length [] }) ∧
      (frameCheckOk f = true → k.lengthFits f = true → (s.part.ctl c).attached = false → k ≠ .attach →
        exec (k.command c) s = .next { s with part := s.part.answered c f .detached [] }) ∧
      (frameCheckOk f = true → k.lengthFits f = true → ((s.part.ctl c).attached = true ∨ k = .attach) →
        s.part.loading = true →
        exec (k.command c) s = .next { s with part := s.part.answered c f .starting [] })) ∧
    (ReqKind.ofByte (frameKind f) = none →
      exec (.unknownKind c) s =
        .next { s with part := s.part.answered c f (if frameCheckOk f = true then .unknownKind else .frameCheck) [] })

/-- No request is taken from an empty buffer or without a free unreserved entry for its response (R135): the command changes
nothing. Nor is one where the head frame is of another kind, or for UNKNOWN_KIND of a known one: the event is then another row's
(log entry 1). -/
def Obligations.NoTakeWithoutRoom : Prop :=
  ∀ (c : CtlNo) (s : State),
    let noRoom := (s.part.ctl c).buffer = [] ∨ 16 ≤ (s.part.ctl c).outbound.length + (s.part.ctl c).reservations
    (∀ k : ReqKind,
      noRoom ∨ (∃ f, (s.part.ctl c).buffer.head? = some f ∧ ReqKind.ofByte (frameKind f) ≠ some k) →
      exec (k.command c) s = .next s) ∧
    (noRoom ∨ (∃ f k, (s.part.ctl c).buffer.head? = some f ∧ ReqKind.ofByte (frameKind f) = some k) →
      exec (.unknownKind c) s = .next s)

/-- ATTACH (R142, R153, R162): BAD-VALUE, or the port attached with the mode and polarity named, the set of attached controllers in
the response, and where the port was DETACHED a CONTROLLER notice (joined) to the others. -/
def Obligations.AttachJoins : Prop :=
  ∀ (c : CtlNo) (s : State) (f : List Byte), s.part.accepts c .attach f →
    (1 < (param f 0).toNat ∨ 1 < (param f 1).toNat →
      exec (.attach c) s = .next { s with part := s.part.answered c f .badValue [] }) ∧
    (∀ (mode : AttnMode) (pol : Polarity), mode.code = param f 0 → pol.code = param f 1 →
      ∃ who : Byte, (∀ r : CtlNo, who.getLsbD r.val = ((s.part.ctl r).attached || decide (r = c))) ∧
        who.toNat < 64 ∧
        exec (.attach c) s =
          .next { s with part := ((s.part.modCtl c fun q => { q with attached := true, mode := mode, polarity := pol }).told
            fun r => if (s.part.ctl c).attached = false ∧ r ≠ c then [.controller c true] else []).answered c f .ok [who] })

/-- DETACH (R50, R67, R86, R89, R128, R132, R138, R144, R146): the controller port reset, with the OK as the one entry in its queue.
A direction byte in progress goes on, and so does a WRITE cycle with no byte received; the rest of a READ cycle is filler. That
the rest of a WRITE cycle whose partial frame the reset clears is ignored is the model's choice (log entry 6). -/
def Obligations.DetachLeavesItsResponse : Prop :=
  ∀ (c : CtlNo) (s : State) (f : List Byte), s.part.accepts c .detach f →
    let q := s.part.ctl c
    let cycle : Cycle :=
      if q.cycle = .closed then .closed
      else if q.cycle = .direction ∧ q.resetLine = false then .direction
      else if q.cycle = .write ∧ q.frame = none ∧ q.resetLine = false then .write
      else .ignored
    ∃ t : Part,
      Part.PortResets c
        { State.reset.part.ctl c with
          resetLine := q.resetLine, cycle := cycle
          offered := if q.resetLine = true ∨ q.cycle = .closed then [] else q.offered.take 1 } s.part t ∧
      exec (.detach c) s =
        .next { s with part := t.modCtl c fun q => { q with outbound := [responseTo f .ok []] } }

/-- NOTICE-MASK (R143, R162): BAD-VALUE for a code that is no notice kind or that stands twice, or the mask becomes the set named
with LOST added, in the response too. -/
def Obligations.NoticeMaskSetsTheMask : Prop :=
  ∀ (c : CtlNo) (s : State) (f : List Byte), s.part.accepts c .noticeMask f →
    (((∃ b ∈ (frameParams f).drop 1, ∀ k : NoticeKind, k.code ≠ b) ∨ ¬ ((frameParams f).drop 1).Nodup) →
      exec (.noticeMask c) s = .next { s with part := s.part.answered c f .badValue [] }) ∧
    (∀ ks : List NoticeKind, (frameParams f).drop 1 = ks.map NoticeKind.code → ks.Nodup →
      let mask := NoticeKind.all.filter fun k => decide (k ∈ ks ∨ k = .lost)
      let data := BitVec.ofNat 8 mask.length :: mask.map NoticeKind.code
      exec (.noticeMask c) s =
        .next { s with part := (s.part.modCtl c fun q => { q with mask := mask }).answered c f .ok data })

/-! ## Layout requests -/

/-- GROUP-READ (R44, R64, R163): the snapshot as the group stands, from every controller that asks. -/
def Obligations.GroupReadReturnsTheSnapshot : Prop :=
  ∀ (c : CtlNo) (s : State) (f : List Byte), s.part.accepts c .groupRead f →
    (12 ≤ (param f 0).toNat → exec (.groupRead c) s = .next { s with part := s.part.answered c f .badValue [] }) ∧
    (∀ g : GroupNo, (param f 0).toNat = g.val →
      exec (.groupRead c) s =
        .next { s with part := (s.part.renewed c g).answered c f .ok (asBytes (s.part.snapshot g)) })

/-- The checks of the four layout-changing requests, in their order, with the answer of each (R43, R45, R47, R48, R49, R61): a
refused request changes nothing but its own holder's hold timer (R64). -/
def Obligations.LayoutRequestsRefuseInOrder : Prop :=
  ∀ (c : CtlNo) (s : State) (f : List Byte),
    (s.part.accepts c .groupAdd f →
      (12 ≤ (param f 0).toNat → exec (.groupAdd c) s = .next { s with part := s.part.answered c f .badValue [] }) ∧
      ∀ g : GroupNo, (param f 0).toNat = g.val →
        (24 ≤ (param f 1).toNat →
          exec (.groupAdd c) s = .next { s with part := (s.part.renewed c g).answered c f .badValue [] }) ∧
        ∀ p : PortNo, (param f 1).toNat = p.val →
          let held := s.part.heldAgainst g c ∨ ∃ o, s.part.groupOf p = some o ∧ s.part.heldAgainst o c
          (held → exec (.groupAdd c) s = .next { s with part := (s.part.renewed c g).answered c f .held [] }) ∧
          (¬ held → (s.part.group g).revision ≠ param16 f 2 →
            exec (.groupAdd c) s =
              .next { s with part :=
                (s.part.renewed c g).answered c f .stale (asBytes (twoBytes (s.part.group g).revision.toNat)) }) ∧
          (¬ held → (s.part.group g).revision = param16 f 2 → p ∈ (s.part.group g).members →
            exec (.groupAdd c) s = .next { s with part := (s.part.renewed c g).answered c f .state [] })) ∧
    (s.part.accepts c .groupRemove f →
      (12 ≤ (param f 0).toNat → exec (.groupRemove c) s = .next { s with part := s.part.answered c f .badValue [] }) ∧
      ∀ g : GroupNo, (param f 0).toNat = g.val →
        (24 ≤ (param f 1).toNat →
          exec (.groupRemove c) s = .next { s with part := (s.part.renewed c g).answered c f .badValue [] }) ∧
        ∀ p : PortNo, (param f 1).toNat = p.val →
          (s.part.heldAgainst g c →
            exec (.groupRemove c) s = .next { s with part := (s.part.renewed c g).answered c f .held [] }) ∧
          (¬ s.part.heldAgainst g c → (s.part.group g).revision ≠ param16 f 2 →
            exec (.groupRemove c) s =
              .next { s with part :=
                (s.part.renewed c g).answered c f .stale (asBytes (twoBytes (s.part.group g).revision.toNat)) }) ∧
          (¬ s.part.heldAgainst g c → (s.part.group g).revision = param16 f 2 → p ∉ (s.part.group g).members →
            exec (.groupRemove c) s = .next { s with part := (s.part.renewed c g).answered c f .notMember [] })) ∧
    (s.part.accepts c .groupSet f →
      (12 ≤ (param f 0).toNat → exec (.groupSet c) s = .next { s with part := s.part.answered c f .badValue [] }) ∧
      ∀ g : GroupNo, (param f 0).toNat = g.val →
        let bad := 30 < (param f 1).toNat ∨ (param f 2).toNat = 0 ∨ 10 < (param f 2).toNat ∨ 4 < (param f 3).toNat
        (bad → exec (.groupSet c) s = .next { s with part := (s.part.renewed c g).answered c f .badValue [] }) ∧
        (¬ bad → s.part.heldAgainst g c →
          exec (.groupSet c) s = .next { s with part := (s.part.renewed c g).answered c f .held [] }) ∧
        (¬ bad → ¬ s.part.heldAgainst g c → (s.part.group g).revision ≠ param16 f 5 →
          exec (.groupSet c) s =
            .next { s with part :=
              (s.part.renewed c g).answered c f .stale (asBytes (twoBytes (s.part.group g).revision.toNat)) })) ∧
    (s.part.accepts c .groupDisband f →
      (12 ≤ (param f 0).toNat → exec (.groupDisband c) s = .next { s with part := s.part.answered c f .badValue [] }) ∧
      ∀ g : GroupNo, (param f 0).toNat = g.val →
        (s.part.heldAgainst g c →
          exec (.groupDisband c) s = .next { s with part := (s.part.renewed c g).answered c f .held [] }) ∧
        (¬ s.part.heldAgainst g c → (s.part.group g).revision ≠ param16 f 1 →
          exec (.groupDisband c) s =
            .next { s with part :=
              (s.part.renewed c g).answered c f .stale (asBytes (twoBytes (s.part.group g).revision.toNat)) }))

/-- GROUP-ADD that passes its checks (R19, R41, R42, R45, R46, R79): a port that is in another group leaves it first, with that
group's revision and its LAYOUT notice (MOVED); then the port joins the target group at the tail. -/
def Obligations.GroupAddJoinsOrMoves : Prop :=
  ∀ (c : CtlNo) (s : State) (f : List Byte) (g : GroupNo) (p : PortNo), s.part.accepts c .groupAdd f →
    (param f 0).toNat = g.val → (param f 1).toNat = p.val → ¬ s.part.heldAgainst g c →
    (∀ o, s.part.groupOf p = some o → ¬ s.part.heldAgainst o c) → (s.part.group g).revision = param16 f 2 →
    p ∉ (s.part.group g).members →
    (s.part.groupOf p = none → ∃ t : Part, (s.part.taking c g).Joins t g p ∧
      exec (.groupAdd c) s =
        .next { s with part := (t.revised g .request).responded c f .ok
                                (asBytes (twoBytes ((s.part.group g).revision + 1).toNat ++ [255, 0, 0])) }) ∧
    (∀ o, s.part.groupOf p = some o → ∃ t1 t2 : Part, (s.part.taking c g).Removes t1 o p ∧
      (t1.revised o .moved).Joins t2 g p ∧
      exec (.groupAdd c) s =
        .next { s with part := (t2.revised g .request).responded c f .ok
                                (asBytes (twoBytes ((s.part.group g).revision + 1).toNat ++
            o.val :: twoBytes ((s.part.group o).revision + 1).toNat)) })

/-- GROUP-REMOVE that passes its checks (R19, R41, R42, R47, R80): the port leaves the member list and its place in the floor, the
revision and its LAYOUT notices follow. -/
def Obligations.GroupRemoveTakesThePortOut : Prop :=
  ∀ (c : CtlNo) (s : State) (f : List Byte) (g : GroupNo) (p : PortNo), s.part.accepts c .groupRemove f →
    (param f 0).toNat = g.val → (param f 1).toNat = p.val → ¬ s.part.heldAgainst g c →
    (s.part.group g).revision = param16 f 2 → p ∈ (s.part.group g).members →
    ∃ t : Part, (s.part.taking c g).Removes t g p ∧
      exec (.groupRemove c) s =
        .next { s with part := (t.revised g .request).responded c f .ok
                                (asBytes (twoBytes ((s.part.group g).revision + 1).toNat)) }

/-- GROUP-SET that passes its checks (R41, R42, R48, R50): the four settings, the revision, the dissolve timer by its condition,
the LAYOUT notices. No other timer, no port and no floor is touched. -/
def Obligations.GroupSetWritesTheSettings : Prop :=
  ∀ (c : CtlNo) (s : State) (f : List Byte) (g : GroupNo), s.part.accepts c .groupSet f →
    (param f 0).toNat = g.val → (param f 1).toNat ≤ 30 → 1 ≤ (param f 2).toNat → (param f 2).toNat ≤ 10 →
    (param f 3).toNat ≤ 4 → ¬ s.part.heldAgainst g c → (s.part.group g).revision = param16 f 5 →
    let set := (s.part.taking c g).modGroup g fun r =>
      { r with settings := { hang := (param f 1).toNat, window := (param f 2).toNat, preempt := (param f 3).toNat,
                             dissolve := (param f 4).toNat } }
    exec (.groupSet c) s =
      .next { s with part := (set.revised g .request).responded c f .ok
                              (asBytes (twoBytes ((s.part.group g).revision + 1).toNat)) }

/-- GROUP-DISBAND that passes its checks, and the expiry of a dissolve timer (R41, R42, R49, R52): every member leaves, the whole
floor ends; the disband also restores the default settings. -/
def Obligations.DisbandAndDissolveEmptyTheGroup : Prop :=
  ∀ (g : GroupNo) (s : State),
    (∀ (c : CtlNo) (f : List Byte), s.part.accepts c .groupDisband f → (param f 0).toNat = g.val →
      ¬ s.part.heldAgainst g c → (s.part.group g).revision = param16 f 1 →
      ∃ t : Part,
        ((s.part.taking c g).modGroup g fun r =>
          { r with settings := { hang := 10, window := 3, preempt := 2, dissolve := 0 } }).Empties t g ∧
        exec (.groupDisband c) s =
          .next { s with part := (t.revised g .request).responded c f .ok
                                  (asBytes (twoBytes ((s.part.group g).revision + 1).toNat)) }) ∧
    ((s.part.group g).dissolveTimer ≠ none →
      ∃ t : Part, s.part.Empties t g ∧
        exec (.dissolveTimerExpiry g) s = .next { s with part := t.revised g .dissolve })

/-- The CRC: a register of all ones, each byte's bits from the most significant one, the generator x^16 + x^12 + x^5 + 1, no final
inversion, and its value over "123456789". GROUP-DIGEST (R54, R55): BAD-VALUE, or first, the count used, and the CRC over the
serialized groups, high byte first; nothing else changes. -/
def Obligations.DigestOfTheLayout : Prop :=
  crc [] = 0xFFFF ∧
  (∀ (bytes : List Byte) (b : Byte),
    crc (bytes ++ [b]) =
      (List.range 8).foldl (fun (r : Word) i => (r <<< 1) ^^^ (if r.msb = b.getLsbD (7 - i) then 0 else 0x1021)) (crc bytes)) ∧
  crc (asBytes [0x31, 0x32, 0x33, 0x34, 0x35, 0x36, 0x37, 0x38, 0x39]) = 0x29B1 ∧
  ∀ (c : CtlNo) (s : State) (f : List Byte), s.part.accepts c .groupDigest f →
    let first := (param f 0).toNat
    let count := (param f 1).toNat
    let used := if first + count > 12 then 12 - first else count
    let run := (List.finRange 12).filter fun g => decide (first ≤ g.val ∧ g.val < first + used)
    let digest := crc (asBytes (run.flatMap fun g => (s.part.group g).serial g))
    ((11 < first ∨ count = 0 ∨ 12 < count) →
      exec (.groupDigest c) s = .next { s with part := s.part.answered c f .badValue [] }) ∧
    (first ≤ 11 → 1 ≤ count → count ≤ 12 →
      exec (.groupDigest c) s =
        .next { s with part := s.part.answered c f .ok (asBytes ([first, used] ++ twoBytes digest.toNat)) })

/-- HOLD, by its six checks in order (R57, R58, R59): a hold renewed, HELD with the holder's number, STATE, STALE with the revision,
or the hold taken with its timer started and the dissolve timer stopped. -/
def Obligations.HoldIsTakenOrRenewed : Prop :=
  ∀ (c : CtlNo) (s : State) (f : List Byte), s.part.accepts c .hold f →
    (12 ≤ (param f 0).toNat → exec (.hold c) s = .next { s with part := s.part.answered c f .badValue [] }) ∧
    ∀ g : GroupNo, (param f 0).toNat = g.val →
      ((s.part.group g).holdHolder = some c →
        exec (.hold c) s =
          .next { s with part := (s.part.modGroup g fun r => { r with holdTimer := some 240000 }).answered c f .ok
                                  (asBytes (s.part.snapshot g)) }) ∧
      (∀ k, (s.part.group g).holdHolder = some k → k ≠ c →
        exec (.hold c) s = .next { s with part := s.part.answered c f .held (asBytes [k.val]) }) ∧
      ((s.part.group g).holdHolder = none → (∃ h, (s.part.group h).holdHolder = some c) →
        exec (.hold c) s = .next { s with part := s.part.answered c f .state [] }) ∧
      ((s.part.group g).holdHolder = none → (∀ h, (s.part.group h).holdHolder ≠ some c) →
        (s.part.group g).revision ≠ param16 f 1 →
        exec (.hold c) s =
          .next { s with part := s.part.answered c f .stale (asBytes (twoBytes (s.part.group g).revision.toNat)) }) ∧
      ((s.part.group g).holdHolder = none → (∀ h, (s.part.group h).holdHolder ≠ some c) →
        (s.part.group g).revision = param16 f 1 →
        let held := s.part.modGroup g fun r =>
          { r with holdHolder := some c, holdTimer := some 240000, dissolveTimer := none }
        exec (.hold c) s = .next { s with part := held.answered c f .ok (asBytes (held.snapshot g)) })

/-- RELEASE (R60): BAD-VALUE; STATE from any controller but the holder; or the hold ended, with no notice, and the dissolve timer
started by its condition. The expiry of a hold timer (R65, R69, R152): the hold ends in the same way, and its holder is told. The
dissolve timer of a held group is stopped (R50), which is the premise of both. -/
def Obligations.ReleaseAndExpiryEndTheHold : Prop :=
  ∀ (g : GroupNo) (s : State) (c : CtlNo),
    let unheld := s.part.modGroup g fun r =>
      { r with
        holdHolder := none
        holdTimer := none
        dissolveTimer :=
          if r.members ≠ [] ∧ (s.part.floor g).state = .free ∧ r.settings.dissolve ≠ 0
          then some (480000 * r.settings.dissolve) else none }
    (∀ f : List Byte, s.part.accepts c .release f →
      (12 ≤ (param f 0).toNat → exec (.release c) s = .next { s with part := s.part.answered c f .badValue [] }) ∧
      ((param f 0).toNat = g.val → (s.part.group g).holdHolder ≠ some c →
        exec (.release c) s = .next { s with part := s.part.answered c f .state [] }) ∧
      ((param f 0).toNat = g.val → (s.part.group g).holdHolder = some c → (s.part.group g).dissolveTimer = none →
        exec (.release c) s = .next { s with part := unheld.answered c f .ok [] })) ∧
    ((s.part.group g).holdTimer ≠ none → (s.part.group g).holdHolder = some c → (s.part.group g).dissolveTimer = none →
      exec (.holdTimerExpiry g) s = .next { s with part := unheld.told (toAll (fun r => r = c) (.holdEnd g .timeout)) })

/-! ## Radio ports: requests -/

/-- PORT-READ (R20, R164): BAD-VALUE, or the port's settings and runtime fields as they stand; nothing else changes. -/
def Obligations.PortReadReturnsTheRecord : Prop :=
  ∀ (c : CtlNo) (s : State) (f : List Byte), s.part.accepts c .portRead f →
    (24 ≤ (param f 0).toNat → exec (.portRead c) s = .next { s with part := s.part.answered c f .badValue [] }) ∧
    (∀ p : PortNo, (param f 0).toNat = p.val →
      exec (.portRead c) s =
        .next { s with part := s.part.answered c f .ok (asBytes (p.val :: s.part.portRecord p)) })

/-- PORT-SET (R8, R10, R11, R14, R15, R21, R161): BAD-VALUE, NOT-OWNER, or every setting but the owner replaced at once with the
filter restarted; a restart timeout set to OFF stops a timer in WAITING, one set away from OFF with the link DOWN starts it; a
carrier that was yes drops, with its notice by the new trigger (log entry 8). Running timers and the state stay. Both the notice
for a carrier that the filter restart drops (log entry 8) and the one notice, not two and not none, of a port that the new
settings also put under suppression (log entry 9) are the model's choice. -/
def Obligations.PortSetReplacesTheSettings : Prop :=
  ∀ (c : CtlNo) (s : State) (f : List Byte), s.part.accepts c .portSet f →
    ((24 ≤ (param f 0).toNat ∨ ∀ v : PortSettings, v.legal = true → asBytes v.numbers ≠ (frameParams f).drop 1) →
      exec (.portSet c) s = .next { s with part := s.part.answered c f .badValue [] }) ∧
    ∀ (p : PortNo) (v : PortSettings), (param f 0).toNat = p.val → v.legal = true → asBytes v.numbers = (frameParams f).drop 1 →
      v.owner = (s.part.port p).settings.owner →
      ((s.part.port p).settings.owner ≠ c →
        exec (.portSet c) s = .next { s with part := s.part.answered c f .notOwner [] }) ∧
      ((s.part.port p).settings.owner = c →
        let set := (s.part.deferredAt c).modPort p fun r =>
          let r1 := { r with settings := v }.refiltered
          if v.restartTimeout = 0 ∧ r.restartPhase = .waiting then { r1 with restartPhase := .stopped, restartTimer := none }
          else if v.restartTimeout ≠ 0 ∧ r.settings.restartTimeout = 0 ∧ r.linkUp = false ∧ r.restartPhase = .stopped then
            r1.restarted
          else r1
        ∃ t : Part,
          (if (s.part.port p).carrier = true then (set.told (set.carrierNews p false)).DropsCarrier t p else t = set) ∧
          exec (.portSet c) s = .next { s with part := t.responded c f .ok [] })

/-- PORT-CLEAR (R5, R32, R33, R154): out of COOLDOWN or LATCHED to the state of the floor test, or to OFFLINE while the link is
DOWN; the new state in the PORT notice and in the response. -/
def Obligations.PortClearEndsTheLimit : Prop :=
  ∀ (c : CtlNo) (s : State) (f : List Byte), s.part.accepts c .portClear f →
    (24 ≤ (param f 0).toNat → exec (.portClear c) s = .next { s with part := s.part.answered c f .badValue [] }) ∧
    ∀ p : PortNo, (param f 0).toNat = p.val →
      ((s.part.port p).settings.owner ≠ c →
        exec (.portClear c) s = .next { s with part := s.part.answered c f .notOwner [] }) ∧
      ((s.part.port p).settings.owner = c → (s.part.port p).state ≠ .cooldown → (s.part.port p).state ≠ .latched →
        exec (.portClear c) s = .next { s with part := s.part.answered c f .state [] }) ∧
      ((s.part.port p).settings.owner = c → ((s.part.port p).state = .cooldown ∨ (s.part.port p).state = .latched) →
        let st := if (s.part.port p).linkUp = true then s.part.stateOnReturn p else .offline
        let cleared := (s.part.deferredAt c).modPort p (PortRec.backTo st)
        exec (.portClear c) s =
          .next { s with part := (cleared.told (s.part.portNews p st .cleared)).responded c f .ok (asBytes [st.number]) })

/-- PORT-GIVE and PORT-CLAIM (R22, R23): the owner changes and nothing else. -/
def Obligations.PortGiveAndClaimMoveTheOwner : Prop :=
  ∀ (c : CtlNo) (s : State) (f : List Byte),
    (s.part.accepts c .portGive f →
      ((24 ≤ (param f 0).toNat ∨ 6 ≤ (param f 1).toNat) →
        exec (.portGive c) s = .next { s with part := s.part.answered c f .badValue [] }) ∧
      ∀ (p : PortNo) (k : CtlNo), (param f 0).toNat = p.val → (param f 1).toNat = k.val →
        ((s.part.port p).settings.owner ≠ c →
          exec (.portGive c) s = .next { s with part := s.part.answered c f .notOwner [] }) ∧
        ((s.part.port p).settings.owner = c →
          exec (.portGive c) s =
            .next { s with part :=
              (s.part.modPort p fun r => { r with settings := { r.settings with owner := k } }).answered c f .ok [] })) ∧
    (s.part.accepts c .portClaim f →
      (24 ≤ (param f 0).toNat → exec (.portClaim c) s = .next { s with part := s.part.answered c f .badValue [] }) ∧
      ∀ p : PortNo, (param f 0).toNat = p.val →
        ((s.part.ctl (s.part.port p).settings.owner).attached = true →
          exec (.portClaim c) s = .next { s with part := s.part.answered c f .state [] }) ∧
        ((s.part.ctl (s.part.port p).settings.owner).attached = false →
          exec (.portClaim c) s =
            .next { s with part :=
              (s.part.modPort p fun r => { r with settings := { r.settings with owner := c } }).answered c f .ok [] }))

/-! ## Radio ports: events -/

/-- The emergency status (R2, R98): it changes when 160 frames in a row, 20 ms, have shown the input at the other level. Its rise
is told to the arbiter, its fall is not. That elsewhere the commands change nothing is the model's choice (log entry 1). -/
def Obligations.EmergencyStatusChanges : Prop :=
  ∀ (p : PortNo) (s : State),
    ((s.part.port p).emergency = false → 160 ≤ (s.part.port p).emergencyCount → ∃ t : Part,
      (s.part.modPort p fun r => { r with emergency := true, emergencyCount := 0 }).RaisesEmergency t p ∧
      exec (.emergencyStatusAsserted p) s = .next { s with part := t }) ∧
    ((s.part.port p).emergency = true → 160 ≤ (s.part.port p).emergencyCount →
      exec (.emergencyStatusReleased p) s =
        .next { s with part := s.part.modPort p fun r => { r with emergency := false, emergencyCount := 0 } }) ∧
    ((s.part.port p).emergency = true ∨ (s.part.port p).emergencyCount < 160 →
      exec (.emergencyStatusAsserted p) s = .next s) ∧
    ((s.part.port p).emergency = false ∨ (s.part.port p).emergencyCount < 160 →
      exec (.emergencyStatusReleased p) s = .next s)

/-- LINK_LOSS (R6, R8, R11, R12, R78, R154), after 160 frames in a row without the qualifier: the link DOWN; any state but LATCHED
to OFFLINE, from KEYED with the guard; the restart timer started by the timeout; the PORT notice; and what the port had of the
floor ends. The model's choice is that elsewhere the command changes nothing (log entry 1), and that a guard setting of 0 leaves
a guard that still runs (log entry 10). -/
def Obligations.LinkLossTakesThePortOffline : Prop :=
  ∀ (p : PortNo) (s : State),
    ((s.part.port p).linkUp = false ∨ (s.part.port p).linkCount < 160 ∨ s.part.loading = true →
      exec (.linkLoss p) s = .next s) ∧
    ((s.part.port p).linkUp = true → 160 ≤ (s.part.port p).linkCount → s.part.loading = false →
      (s.part.port p).state ≠ .offline →
      let r := s.part.port p
      let down := { r with linkUp := false, linkCount := 0 }
      let out := if r.state = .latched then down
        else if r.state = .keyed then down.guarded.outOfService .offline else down.outOfService .offline
      let lost := (s.part.modPort p fun _ => out.restarted).told (s.part.portNews p out.state .linkDown)
      ∃ t : Part, exec (.linkLoss p) s = .next { s with part := t } ∧
        (r.state = .source → lost.SourceLost t p) ∧
        (r.state = .keyed ∨ r.state = .idle → lost.BecomesUnavailable t p) ∧
        (r.state = .cooldown ∨ r.state = .latched → t = lost))

/-- LINK_RETURN (R5, R7, R8, R154), after 100 frames in a row with the qualifier: the link UP, the restart timer stopped; an OFFLINE
port goes to the state of the floor test, and a LATCHED port stays LATCHED. That elsewhere the command changes nothing is the
model's choice (log entry 1). -/
def Obligations.LinkReturnBringsThePortBack : Prop :=
  ∀ (p : PortNo) (s : State),
    ((s.part.port p).linkUp = true ∨ (s.part.port p).linkCount < 100 ∨ s.part.loading = true →
      exec (.linkReturn p) s = .next s) ∧
    ((s.part.port p).linkUp = false → 100 ≤ (s.part.port p).linkCount → s.part.loading = false →
      let r := s.part.port p
      let up := { r with linkUp := true, linkCount := 0, restartPhase := .stopped, restartTimer := none }
      let back := if r.state = .offline then up.backTo (s.part.stateOnReturn p) else up
      exec (.linkReturn p) s =
        .next { s with part := (s.part.modPort p fun _ => back).told (s.part.portNews p back.state .linkUp) })

/-- The restart timer and its pulse, and the end of the tail guard (R8, R10, R11, R12, R154). -/
def Obligations.RestartAndGuardEnd : Prop :=
  ∀ (p : PortNo) (s : State),
    ((s.part.port p).restartPhase = .waiting →
      let pulsing := s.part.modPort p fun r =>
        { r with restartPhase := .pulsing, restartTimer := some (2000 + 400 * r.settings.restartPulse) }
      exec (.restartTimerExpiry p) s =
        .next { s with part := pulsing.told (s.part.portNews p (s.part.port p).state .restart) }) ∧
    ((s.part.port p).restartPhase = .pulsing →
      exec (.restartPulseEnd p) s = .next { s with part := s.part.modPort p PortRec.restarted }) ∧
    ((s.part.port p).guard ≠ none →
      exec (.guardEnd p) s =
        .next { s with part := s.part.modPort p fun r =>
          if { r with guard := none }.Suppressed then { r with guard := none }.quiet else { r with guard := none }.refiltered })

/-- QUALIFIED_CARRIER_YES (R10, R11, R13, R15), where the run of the filter has reached its time: the carrier yes, its notice by
the trigger, and the floor request of an IDLE or KEYED member. Under suppression no carrier qualifies. That elsewhere the command
changes nothing is the model's choice (log entry 1). -/
def Obligations.CarrierYesClaimsTheFloor : Prop :=
  ∀ (p : PortNo) (s : State),
    ((s.part.port p).Suppressed ∨ (s.part.port p).carrier = true ∨ ¬ (s.part.port p).RunEnds →
      exec (.qualifiedCarrierYes p) s = .next s) ∧
    (¬ (s.part.port p).Suppressed → (s.part.port p).carrier = false → (s.part.port p).RunEnds →
      let on := (s.part.modPort p fun r => { r with carrier := true, runCount := 0 }).told (s.part.carrierNews p true)
      ∃ t : Part, exec (.qualifiedCarrierYes p) s = .next { s with part := t } ∧
        (∀ g, s.part.groupOf p = some g → ((s.part.port p).state = .idle ∨ (s.part.port p).state = .keyed) →
          on.Requests t g p) ∧
        (s.part.groupOf p = none ∨ (s.part.port p).state = .source → t = on))

/-- QUALIFIED_CARRIER_NO (R10, R14, R15), where the run of the filter has reached its time: the carrier no, its notice by the
trigger; a talker's talk ends, a waiter leaves the list. That elsewhere the command changes nothing is the model's choice (log
entry 1). -/
def Obligations.CarrierNoEndsTheTalk : Prop :=
  ∀ (p : PortNo) (s : State),
    ((s.part.port p).carrier = false ∨ ¬ (s.part.port p).RunEnds → exec (.qualifiedCarrierNo p) s = .next s) ∧
    ((s.part.port p).carrier = true → (s.part.port p).RunEnds →
      ∃ t : Part,
        ((s.part.modPort p fun r => { r with carrier := false, runCount := 0 }).told (s.part.carrierNews p false)).DropsCarrier
          t p ∧
        exec (.qualifiedCarrierNo p) s = .next { s with part := t })

/-- The expiry of a transmit limit and of a carrier limit (R12, R27, R28, R78, R154): out of service by the limit action, from
KEYED with the guard; the PORT notice; and what the port had of the floor ends. That a guard setting of 0 leaves a guard that
still runs is the model's choice (log entry 10). -/
def Obligations.LimitExpiryTakesThePortOut : Prop :=
  ∀ (p : PortNo) (s : State),
    ((s.part.port p).transmitTimer ≠ none → (s.part.port p).state = .keyed →
      let out := (s.part.port p).guarded.limited
      ∃ t : Part,
        ((s.part.modPort p fun _ => out).told (s.part.portNews p out.state .txLimit)).BecomesUnavailable t p ∧
        exec (.transmitLimitExpiry p) s = .next { s with part := t }) ∧
    ((s.part.port p).carrierTimer ≠ none → (s.part.port p).state = .source →
      let out := (s.part.port p).limited
      ∃ t : Part,
        ((s.part.modPort p fun _ => out).told (s.part.portNews p out.state .carrierLimit)).SourceLost t p ∧
        exec (.carrierLimitExpiry p) s = .next { s with part := t })

/-- The end of a cooldown (R5, R30, R154): into service by the floor test, with the PORT notice. -/
def Obligations.CooldownEndsInService : Prop :=
  ∀ (p : PortNo) (s : State), (s.part.port p).cooldownTimer ≠ none → (s.part.port p).state = .cooldown →
    let st := s.part.stateOnReturn p
    exec (.cooldownExpiry p) s =
      .next { s with part := (s.part.modPort p (PortRec.backTo st)).told (s.part.portNews p st .cooldownEnd) }

/-- What the arbiter's orders do to one port (R11, R12, R16, R17, R18, R24, R88): a key order to an IDLE port, an unkey order to a
KEYED one, a grant to either, a preempt or strip order to a talker. What a removal from its group does to a port (R19): from
KEYED to IDLE with the guard, from SOURCE to IDLE without. What a talker's own carrier drop does (R14): to IDLE with no guard. In
any other state, nothing. That a guard setting of 0 leaves a guard that still runs, where a guard starts, is the model's choice
(log entry 10). -/
def Obligations.OrdersOnOnePort : Prop :=
  ∀ r : PortRec,
    let off := { r with transmitTimer := none, carrierTimer := none, cooldownTimer := none }
    let under (x : PortRec) : PortRec := if x.Suppressed then x.quiet else if r.Suppressed then x.refiltered else x
    (r.key = if r.state = .idle then under { off with state := .keyed, transmitTimer := limitFrames r.settings.transmitLimit } else r) ∧
    (r.unkey = if r.state = .keyed then under { off with state := .idle }.guarded else r) ∧
    (r.grant = if r.state = .idle ∨ r.state = .keyed then
        under { off with state := .source, carrierTimer := limitFrames r.settings.carrierLimit } else r) ∧
    (r.preempt = if r.state = .source then
        { off with state := .keyed, transmitTimer := limitFrames r.settings.transmitLimit }.refiltered else r) ∧
    (r.strip = if r.state = .source then under { off with state := .idle }.guarded else r) ∧
    (r.removed = if r.state = .keyed then under { off with state := .idle }.guarded
      else if r.state = .source then under { off with state := .idle } else r) ∧
    (r.endTalk = if r.state = .source then under { off with state := .idle } else r)

/-! ## Consoles and the floor -/

/-- CONSOLE-SET (R115, R161): BAD-VALUE, or class and monitor set at one event, and nothing else. -/
def Obligations.ConsoleSetWritesClassAndSet : Prop :=
  ∀ (c : CtlNo) (s : State) (f : List Byte), s.part.accepts c .consoleSet f →
    let named := (frameParams f).drop 2
    let bad := 1 < (param f 0).toNat ∨ (∃ b ∈ named, 12 ≤ b.toNat) ∨ ¬ named.Nodup
    (bad → exec (.consoleSet c) s = .next { s with part := s.part.answered c f .badValue [] }) ∧
    (¬ bad → ∃ set : List GroupNo, (∀ g : GroupNo, g ∈ set ↔ BitVec.ofNat 8 g.val ∈ named) ∧ set.Nodup ∧
      exec (.consoleSet c) s =
        .next { s with part := (s.part.modConsole c fun r =>
          { r with srcClass := if param f 0 = 0 then .high else .low, monitor := set }).answered c f .ok [] })

/-- The checks of TALK-REQUEST, in their order (R81). -/
def Obligations.TalkRequestRefusesInOrder : Prop :=
  ∀ (c : CtlNo) (s : State) (f : List Byte), s.part.accepts c .talkRequest f →
    (12 ≤ (param f 0).toNat → exec (.talkRequest c) s = .next { s with part := s.part.answered c f .badValue [] }) ∧
    ∀ g : GroupNo, (param f 0).toNat = g.val →
      let refused (st : Status) : Prop :=
        exec (.talkRequest c) s = .next { s with part := (s.part.renewed c g).answered c f st [] }
      (1 < (param f 1).toNat → refused .badValue) ∧
      ((param f 1).toNat ≤ 1 → (s.part.group g).members = [] → refused .noSuch) ∧
      ((param f 1).toNat ≤ 1 → (s.part.group g).members ≠ [] → (s.part.console c).involvement = .waiter g →
        refused .state) ∧
      ((param f 1).toNat ≤ 1 → (s.part.group g).members ≠ [] → (s.part.console c).involvement = .holder g →
        ((s.part.floor g).state = .pending ∨ (s.part.floor g).state = .talk) → refused .state) ∧
      ((param f 1).toNat ≤ 1 → (s.part.group g).members ≠ [] →
        (∃ h, h ≠ g ∧ ((s.part.console c).involvement = .waiter h ∨ (s.part.console c).involvement = .holder h)) →
        refused .consoleBusy)

/-- TALK-REQUEST that passes its checks (R81, R90, R93, R99): GRANTED from FREE with the grant window, RESUMED by the parked
console, or a claim on a busy floor: WAITING, or GRANTED where the claim is granted at once. -/
def Obligations.TalkRequestClaimsTheFloor : Prop :=
  ∀ (c : CtlNo) (s : State) (f : List Byte) (g : GroupNo), s.part.accepts c .talkRequest f → (param f 0).toNat = g.val →
    (param f 1).toNat ≤ 1 → (s.part.group g).members ≠ [] →
    ((s.part.console c).involvement = .none ∨
      ((s.part.console c).involvement = .holder g ∧ (s.part.floor g).state ≠ .pending ∧ (s.part.floor g).state ≠ .talk)) →
    let em := decide ((param f 1).toNat = 1)
    let fl := s.part.floor g
    (fl.state = .free →
      let fl' := FloorRec.givenTo (.console c) em (s.part.group g).settings.window fl.waiting fl.lowTurn
      ∃ t : Part, (s.part.taking c g).FloorGoes t g fl' (s.part.floorNews g fl' .granted) ∧
        exec (.talkRequest c) s = .next { s with part := t.responded c f .ok [0] }) ∧
    (fl.state = .hang → fl.holder = some (.console c) →
      let fl' := { fl with state := .talk, hangTimer := none, mark := em }
      let t := ((s.part.taking c g).modFloor g fun _ => fl').told (s.part.floorNews g fl' .resumed)
      exec (.talkRequest c) s = .next { s with part := t.responded c f .ok [2] }) ∧
    (fl.state ≠ .free → ¬ (fl.state = .hang ∧ fl.holder = some (.console c)) →
      ∃ t : Part,
        (s.part.taking c g).ClaimsBusy t g
          { source := .console c, srcClass := (s.part.console c).srcClass, emergency := em } (some c) ∧
        let outcome : Byte := if (t.floor g).holder = some (.console c) then 0 else 1
        exec (.talkRequest c) s = .next { s with part := t.responded c f .ok [outcome] })

/-- TALK-START, TALK-END and TALK-CANCEL (R74, R76, R82 to R85): by the console's involvement and the floor's state. -/
def Obligations.TalkStartEndAndCancel : Prop :=
  ∀ (c : CtlNo) (s : State) (f : List Byte),
    (s.part.accepts c .talkStart f →
      (∀ g, (s.part.console c).involvement = .holder g → (s.part.floor g).state = .pending →
        let fl := { s.part.floor g with state := .talk, windowTimer := none }
        let t := ((s.part.deferredAt c).modFloor g fun _ => fl).told (s.part.floorNews g fl .started)
        exec (.talkStart c) s = .next { s with part := t.responded c f .ok (asBytes [g.val]) }) ∧
      ((∀ g, (s.part.console c).involvement = .holder g → (s.part.floor g).state ≠ .pending) →
        exec (.talkStart c) s = .next { s with part := s.part.answered c f .state [] })) ∧
    (s.part.accepts c .talkEnd f →
      (∀ g, (s.part.console c).involvement = .holder g → (s.part.floor g).state = .talk →
        ∃ t : Part, (s.part.deferredAt c).EndsTalk t g ∧
          exec (.talkEnd c) s = .next { s with part := t.responded c f .ok (asBytes [g.val]) }) ∧
      ((∀ g, (s.part.console c).involvement = .holder g → (s.part.floor g).state ≠ .talk) →
        exec (.talkEnd c) s = .next { s with part := s.part.answered c f .state [] })) ∧
    (s.part.accepts c .talkCancel f →
      (∀ g, (s.part.console c).involvement = .waiter g →
        let left := (s.part.modFloor g (FloorRec.leftBy (.console c))).modConsole c fun r => { r with involvement := .none }
        exec (.talkCancel c) s = .next { s with part := left.answered c f .ok (asBytes [g.val]) }) ∧
      (∀ g, (s.part.console c).involvement = .holder g → (s.part.floor g).state = .pending →
        let fl := (s.part.floor g).passed (s.part.group g).settings.window
        let news := fun r => s.part.lapseNews g .cancelled r ++ (grantNews g fl r ++ s.part.floorNews g fl .lapsed r)
        ∃ t : Part, (s.part.deferredAt c).FloorGoes t g fl news ∧
          exec (.talkCancel c) s = .next { s with part := t.responded c f .ok (asBytes [g.val]) }) ∧
      (((s.part.console c).involvement = .none ∨
          (∃ g, (s.part.console c).involvement = .holder g ∧ (s.part.floor g).state ≠ .pending)) →
        exec (.talkCancel c) s = .next { s with part := s.part.answered c f .state [] }))

/-- FLOOR-CLEAR (R62, R87, R88): BAD-VALUE, HELD, a FREE floor left as it is, or the whole floor ended with its radio talker
stripped to IDLE and its other members unkeyed. -/
def Obligations.FloorClearEndsTheFloor : Prop :=
  ∀ (c : CtlNo) (s : State) (f : List Byte), s.part.accepts c .floorClear f →
    (12 ≤ (param f 0).toNat → exec (.floorClear c) s = .next { s with part := s.part.answered c f .badValue [] }) ∧
    ∀ g : GroupNo, (param f 0).toNat = g.val →
      (s.part.heldAgainst g c →
        exec (.floorClear c) s = .next { s with part := (s.part.renewed c g).answered c f .held [] }) ∧
      (¬ s.part.heldAgainst g c → (s.part.floor g).state = .free →
        exec (.floorClear c) s = .next { s with part := (s.part.renewed c g).answered c f .ok [] }) ∧
      (¬ s.part.heldAgainst g c → (s.part.floor g).state ≠ .free →
        ∃ t : Part, (s.part.taking c g).FloorEnds t g (s.part.endNews g .cleared .cleared) ∧
          (∀ p, t.port p =
            let r := if (s.part.floor g).holder = some (.port p) then (s.part.port p).strip else s.part.port p
            if p ∈ (s.part.group g).members then r.unkey else r) ∧
          exec (.floorClear c) s = .next { s with part := t.responded c f .ok [] })

/-- The expiries of the floor timers (R75, R82, R105): a hang passes on with no LAPSE notice, a pending grant lapses, a routine
talker is cut. -/
def Obligations.FloorTimersExpire : Prop :=
  ∀ (g : GroupNo) (s : State),
    let f := (s.part.floor g).passed (s.part.group g).settings.window
    ((s.part.floor g).hangTimer ≠ none → (s.part.floor g).state = .hang →
      ∃ t : Part, s.part.FloorGoes t g f (fun r => grantNews g f r ++ s.part.floorNews g f .hangExpired r) ∧
        exec (.hangTimerExpiry g) s = .next { s with part := t }) ∧
    ((s.part.floor g).windowTimer ≠ none → (s.part.floor g).state = .pending →
      ∃ t : Part,
        s.part.FloorGoes t g f
          (fun r => s.part.lapseNews g .window r ++ (grantNews g f r ++ s.part.floorNews g f .lapsed r)) ∧
        exec (.grantWindowExpiry g) s = .next { s with part := t }) ∧
    ((s.part.floor g).preemptTimer ≠ none → (s.part.floor g).state = .talk → (s.part.floor g).mark = false →
      ∃ t : Part, s.part.Cuts t g none ∧ exec (.preemptTimerExpiry g) s = .next { s with part := t })

/-- The grant decision, by the first of three tiers that applies, with the low-turn count it leaves; and the winner's emergency
flag becomes the floor's emergency mark (R96). -/
def Obligations.GrantDecisionTiers : Prop :=
  ∀ (ws : List Entry) (count : Nat),
    let high := (ws.filter fun e => e.srcClass = .high).length
    let oldest (e : Entry) (q : Entry → Prop) : Prop := ∃ before after, ws = before ++ e :: after ∧ q e ∧ ∀ x ∈ before, ¬ q x
    (∀ e, oldest e (fun x => x.emergency = true) → grantDecision ws count = some (e, count)) ∧
    ((∀ x ∈ ws, x.emergency = false) →
      (∀ e, oldest e (fun x => x.srcClass = .low) → (high = 0 ∨ high ≤ count) → grantDecision ws count = some (e, 0)) ∧
      (∀ e, oldest e (fun x => x.srcClass = .high) → (∃ x ∈ ws, x.srcClass = .low) → count < high →
        grantDecision ws count = some (e, count + 1)) ∧
      (∀ e, oldest e (fun x => x.srcClass = .high) → (∀ x ∈ ws, x.srcClass = .high) →
        grantDecision ws count = some (e, count))) ∧
    grantDecision [] count = none ∧
    (∀ (f : FloorRec) (window : Nat) (e : Entry) (n : Nat), f.waiting = ws → f.lowTurn = count →
      grantDecision ws count = some (e, n) → (f.passed window).mark = e.emergency)

/-! ## Audio -/

/-- LEVEL_BLOCK_END (R9, R113), where the block holds its 80 frames: every level from its peak, raw level and hysteresis
together, the peaks and the block back to 0. That elsewhere the command changes nothing is the model's choice (log entry 1). -/
def Obligations.LevelBlockEndHandsTheLevels : Prop :=
  ∀ s : State,
    (s.part.blockFrames < 80 → exec .levelBlockEnd s = .next s) ∧
    (80 ≤ s.part.blockFrames → ∃ t : Part, exec .levelBlockEnd s = .next { s with part := t } ∧
      (∀ p, ∃ level, IsLevel (tget s.part.peaks p) level ∧
        t.port p =
          { s.part.port p with
            rawLevel := level
            hysteresis :=
              if (s.part.port p).settings.openThreshold ≤ level then true
              else if level < (s.part.port p).settings.closeThreshold then false else (s.part.port p).hysteresis }) ∧
      t = { s.part with ports := t.ports, peaks := Vector.replicate 24 0, blockFrames := 0 })

/-- TDM_FRAME, the samples (R108 to R113): what each transmit slot carries by the routing as it stands, from the samples of the
frame before; what is taken from each receive slot; the peaks and the frames of the block. That events of counts which are due,
and which no command has brought, are taken first, in this order, is the model's choice (log entry 24); where none is due, the
frame is taken from the state as it stands. -/
def Obligations.TdmFrameRoutesTheSamples : Prop :=
  ∀ (rx : Vector RxSlot 24) (mics : Vector Sample 6) (s : State),
    ∃ m : Part, Runs countEvents s { s with part := m } ∧ (s.part.NothingDue → m = s.part) ∧
      ∃ t : Part, exec (.tdmFrame rx mics) s = .next { s with part := t } ∧
        (∀ (p : PortNo) (i : TdmSlot), i.val = p.val →
          tget t.transmit i =
            (match m.groupOf p with
            | none => 0
            | some g =>
              if (m.port p).state = .keyed then
                match m.routedSlot g with
                | none => 0
                | some n => m.takenAt n
              else 0) ∧
          tget t.taken i = if (tget rx p).valid = true then (tget rx p).data else 0) ∧
        (∀ (c : CtlNo) (i : TdmSlot), i.val = 24 + c.val →
          (let sum := ((m.console c).monitor.map fun g =>
            match m.routedSlot g with
            | none => 0
            | some n => if n = 24 + c.val then 0 else (m.takenAt n).toInt).sum
           (tget t.transmit i).toInt = if sum > 32767 then 32767 else if sum < -32768 then -32768 else sum) ∧
          tget t.taken i = tget mics c) ∧
        (∀ p : PortNo,
          let x := if (tget rx p).valid = true then (tget rx p).data.toInt.natAbs else 0
          tget t.peaks p = max (tget m.peaks p) (if x > 32767 then 32767 else x)) ∧
        t.blockFrames = m.blockFrames + 1

/-- TDM_FRAME, the counts and timers (R2, R6, R7, R10, R11, R129): the link monitor, the emergency debounce, the filter run with
the time read at its start, and every timer one frame on; nothing else of any record. That events of counts which are due are
taken first (log entry 24), and that a timer at 0 stays there until its command (log entry 3), is the model's choice. -/
def Obligations.TdmFrameCountsAndTimes : Prop :=
  ∀ (rx : Vector RxSlot 24) (mics : Vector Sample 6) (s : State),
    ∃ m : Part, Runs countEvents s { s with part := m } ∧ (s.part.NothingDue → m = s.part) ∧
      ∃ t : Part, exec (.tdmFrame rx mics) s = .next { s with part := t } ∧
        (∀ p : PortNo,
          let r := m.port p
          let x := tget rx p
          let running := ¬ r.Suppressed ∧ r.detects x.carrierHigh ≠ r.carrier
          let time := attackFrames (if r.carrier = true then r.settings.release else r.settings.attack)
          let length := if r.runCount = 0 then (if time = 0 then 1 else time) else r.runLength
          t.port p =
            { r with
              linkCount :=
                if m.loading = true then r.linkCount
                else if r.linkUp = true then (if x.valid = true then 0 else r.linkCount + 1)
                else if x.valid = true then r.linkCount + 1 else 0
              emergencyCount := if x.emergencyHigh = r.emergency then 0 else r.emergencyCount + 1
              runLength := if running then length else r.runLength
              runCount := if running then r.runCount + 1 else 0
              restartTimer := Timer.earlier r.restartTimer
              guard := Timer.earlier r.guard
              transmitTimer := Timer.earlier r.transmitTimer
              carrierTimer := Timer.earlier r.carrierTimer
              cooldownTimer := Timer.earlier r.cooldownTimer }) ∧
        (∀ g, t.group g =
          { m.group g with
            holdTimer := Timer.earlier (m.group g).holdTimer, dissolveTimer := Timer.earlier (m.group g).dissolveTimer }) ∧
        (∀ g, t.floor g =
          { m.floor g with
            hangTimer := Timer.earlier (m.floor g).hangTimer, windowTimer := Timer.earlier (m.floor g).windowTimer,
            preemptTimer := Timer.earlier (m.floor g).preemptTimer }) ∧
        t.storeOp = m.storeOp.map (fun op => { op with timeLeft := Timer.earlier op.timeLeft }) ∧
        t.consoles = m.consoles ∧ t.ctls = m.ctls ∧ t.slots = m.slots ∧ t.portsRecord = m.portsRecord

/-! ## The layout store -/

/-- The five store requests (R119 to R124, R137): BAD-VALUE, BUSY, or the operation begun: the response deferred, the snapshot
taken, the slot or record EMPTY from that event on, the time 60, 30 or 5 ms. -/
def Obligations.StoreOperationsStart : Prop :=
  ∀ (c : CtlNo) (s : State) (f : List Byte),
    let badSlot := 16 ≤ (param f 0).toNat
    let started (d : Part) (kind : StoreKind) (time : Nat) : Part :=
      { d.deferredAt c with
        storeOp := some { kind, requester := some c, responseWanted := true, tag := frameTag f, timeLeft := some time } }
    (s.part.accepts c .presetStore f →
      let named := (frameParams f).drop 2
      let bad := badSlot ∨ (∃ b ∈ named, 12 ≤ b.toNat) ∨ named = [] ∨ ¬ named.Nodup
      (bad → exec (.presetStore c) s = .next { s with part := s.part.answered c f .badValue [] }) ∧
      (¬ bad → s.part.storeOp ≠ none → exec (.presetStore c) s = .next { s with part := s.part.answered c f .busy [] }) ∧
      (∀ (slot : SlotNo) (gs : List GroupNo), (param f 0).toNat = slot.val → named = gs.map (fun g => BitVec.ofNat 8 g.val) →
        gs ≠ [] → gs.Nodup → s.part.storeOp = none →
        let snapshot := gs.map fun g =>
          { group := g, settings := (s.part.group g).settings, members := (s.part.group g).members : GroupEntry }
        exec (.presetStore c) s =
          .next { s with part := started (s.part.setSlot slot none) (.presetStore slot snapshot) 480 })) ∧
    (s.part.accepts c .portsStore f →
      (s.part.storeOp ≠ none → exec (.portsStore c) s = .next { s with part := s.part.answered c f .busy [] }) ∧
      (s.part.storeOp = none → ∃ snapshot : Vector PortSettings 24,
        (∀ p, tget snapshot p = (s.part.port p).settings) ∧
        exec (.portsStore c) s =
          .next { s with part := started { s.part with portsRecord := none } (.portsStore snapshot) 480 })) ∧
    (s.part.accepts c .presetErase f →
      (badSlot → exec (.presetErase c) s = .next { s with part := s.part.answered c f .badValue [] }) ∧
      (¬ badSlot → s.part.storeOp ≠ none → exec (.presetErase c) s = .next { s with part := s.part.answered c f .busy [] }) ∧
      (∀ slot : SlotNo, (param f 0).toNat = slot.val → s.part.storeOp = none →
        exec (.presetErase c) s = .next { s with part := started (s.part.setSlot slot none) (.presetErase slot) 240 })) ∧
    (s.part.accepts c .presetRead f →
      (badSlot → exec (.presetRead c) s = .next { s with part := s.part.answered c f .badValue [] }) ∧
      (¬ badSlot → s.part.storeOp ≠ none → exec (.presetRead c) s = .next { s with part := s.part.answered c f .busy [] }) ∧
      (∀ slot : SlotNo, (param f 0).toNat = slot.val → s.part.storeOp = none →
        exec (.presetRead c) s = .next { s with part := started s.part (.presetRead slot) 40 })) ∧
    (s.part.accepts c .presetRecall f →
      (badSlot → exec (.presetRecall c) s = .next { s with part := s.part.answered c f .badValue [] }) ∧
      (¬ badSlot → s.part.storeOp ≠ none → exec (.presetRecall c) s = .next { s with part := s.part.answered c f .busy [] }) ∧
      (∀ slot : SlotNo, (param f 0).toNat = slot.val → s.part.storeOp = none →
        exec (.presetRecall c) s = .next { s with part := started s.part (.presetRecall slot) 40 }))

/-- The completions of a store, of a PORTS-STORE, of an erase and of a read (R119 to R123, R128, R137, R165). -/
def Obligations.StoreOperationsComplete : Prop :=
  ∀ (s : State) (op : StoreOp), s.part.storeOp = some op →
    (∀ slot pre, op.kind = .presetStore slot pre →
      exec .presetStoreCompletion s =
        .next { s with part :=
          { s.part.setSlot slot (some pre) with storeOp := none }.answersFor op 0x40 .ok (asBytes [slot.val]) }) ∧
    (∀ record, op.kind = .portsStore record →
      exec .portsStoreCompletion s =
        .next { s with part := { s.part with portsRecord := some record, storeOp := none }.answersFor op 0x44 .ok [] }) ∧
    (∀ slot, op.kind = .presetErase slot →
      exec .presetEraseCompletion s =
        .next { s with part := { s.part with storeOp := none }.answersFor op 0x42 .ok (asBytes [slot.val]) }) ∧
    (∀ slot, op.kind = .presetRead slot →
      let idle := { s.part with storeOp := none }
      (∀ pre, tget s.part.slots slot = some pre →
        exec .presetReadCompletion s =
          .next { s with part := idle.answersFor op 0x43 .ok (asBytes (slot.val :: presetNumbers pre)) }) ∧
      (tget s.part.slots slot = none →
        exec .presetReadCompletion s = .next { s with part := idle.answersFor op 0x43 .noSuch [] }))

/-- The completion of a recall (R41, R50, R63, R68, R124 to R126, R151): NO-SUCH; HELD, with nothing changed; or every named
group rewritten and every losing group without the ports the preset places, each one revision higher with its LAYOUT notice,
losing groups first; holds, floors of other groups and port settings as they were. How it comes about is R125's three passes
(R19, R79, R80, R88 to R91, R105): the named floors cleared, the leaving ports out of their groups, the named groups rewritten with
their joins. That several ports leave one group one after the other, each with the consequences of a single removal, is the
model's choice (log entry 11). -/
def Obligations.RecallRewritesTheLayout : Prop :=
  ∀ (s : State) (op : StoreOp) (slot : SlotNo), s.part.storeOp = some op → op.kind = .presetRecall slot →
    (tget s.part.slots slot = none →
      exec .presetRecallCompletion s =
        .next { s with part := { s.part with storeOp := none }.answersFor op 0x41 .noSuch [] }) ∧
    ∀ pre, tget s.part.slots slot = some pre →
      let touched (g : GroupNo) : Prop := Part.namedBy pre g ∨ s.part.losesTo pre g
      let held := ∃ g k, touched g ∧ (s.part.group g).holdHolder = some k ∧ op.requester ≠ some k
      (held →
        exec .presetRecallCompletion s =
          .next { s with part := { s.part with storeOp := none }.answersFor op 0x41 .held [] }) ∧
      (¬ held → pre.Sound →
        ∃ (t : Part) (losing : List GroupNo), (∀ g, g ∈ losing ↔ s.part.losesTo pre g) ∧ losing.Pairwise (· < ·) ∧
          exec .presetRecallCompletion s =
            .next { s with part := t.answersFor op 0x41 .ok (asBytes [slot.val, pre.length + losing.length]) } ∧
          ({ s.part with storeOp := none }).Recalls pre losing t ∧
          (∀ e ∈ pre, (t.group e.group).members = e.members ∧ (t.group e.group).settings = e.settings ∧
            (t.group e.group).dissolveTimer =
              if (t.floor e.group).state = .free ∧ e.members ≠ [] ∧ (s.part.group e.group).holdHolder = none ∧
                e.settings.dissolve ≠ 0
              then some (480000 * e.settings.dissolve) else none) ∧
          (∀ g, ¬ Part.namedBy pre g →
            (t.group g).members = (s.part.group g).members.filter (fun p => decide (∀ e ∈ pre, p ∉ e.members)) ∧
            (t.group g).settings = (s.part.group g).settings) ∧
          (∀ g, touched g → (t.group g).revision = (s.part.group g).revision + 1) ∧
          (∀ g, ¬ touched g → t.group g = s.part.group g ∧ t.floor g = s.part.floor g) ∧
          (∀ g, (t.group g).holdHolder = (s.part.group g).holdHolder ∧ (t.group g).holdTimer = (s.part.group g).holdTimer) ∧
          (∀ p, (s.part.port p).FloorActed (t.port p)) ∧
          (∀ c, (t.console c).srcClass = (s.part.console c).srcClass ∧ (t.console c).monitor = (s.part.console c).monitor) ∧
          (∀ r, ∃ ns : List Notice, t.ctl r = (s.part.ctl r).receives ns ∧
            ns.filter (fun n => n.kind = .layout) =
              if (s.part.ctl r).attached = true then
                (losing ++ pre.map fun e => e.group).map fun g => .layout g ((s.part.group g).revision + 1) .recall
              else []) ∧
          t.storeOp = none ∧ t.slots = s.part.slots ∧ t.portsRecord = s.part.portsRecord ∧ t.taken = s.part.taken ∧
          t.transmit = s.part.transmit ∧ t.peaks = s.part.peaks ∧ t.blockFrames = s.part.blockFrames)

/-! ## Encodings -/

/-- A request frame as a controller writes it reads back as its kind, tag and parameters, and passes its check; any frame passes
the check exactly if the CRC over the whole of it leaves the register at 0; the kind codes, and the frame length that each kind
calls for; and legal settings, as the bytes that PORT-SET and GROUP-SET carry, read back as themselves (R40, R134, R136, R158 to
R162, R164). -/
def Obligations.RequestBytesReadBack : Prop :=
  (∀ (k : ReqKind) (tag : Byte) (params : List Byte), params.length ≤ 91 →
    let f := requestFrame k tag params
    f.length = params.length + 5 ∧ (f.getD 0 0).toNat = f.length ∧ frameCheckOk f = true ∧
      ReqKind.ofByte (frameKind f) = some k ∧ frameTag f = tag ∧ frameParams f = params) ∧
  (∀ f : List Byte, 2 ≤ f.length → (frameCheckOk f = true ↔ crc f = 0)) ∧
  (let codes : List (ReqKind × Byte) :=
    [(.attach, 0x01), (.detach, 0x02), (.noticeMask, 0x03), (.groupRead, 0x10), (.groupAdd, 0x11), (.groupRemove, 0x12),
     (.groupSet, 0x13), (.groupDisband, 0x14), (.groupDigest, 0x15), (.hold, 0x16), (.release, 0x17), (.portRead, 0x20),
     (.portSet, 0x21), (.portClear, 0x22), (.portGive, 0x23), (.portClaim, 0x24), (.consoleSet, 0x30), (.talkRequest, 0x31),
     (.talkStart, 0x32), (.talkEnd, 0x33), (.talkCancel, 0x34), (.floorClear, 0x35), (.presetStore, 0x40),
     (.presetRecall, 0x41), (.presetErase, 0x42), (.presetRead, 0x43), (.portsStore, 0x44)]
   ∀ (b : Byte) (k : ReqKind), ReqKind.ofByte b = some k ↔ (k, b) ∈ codes) ∧
  (∀ f : List Byte,
    (∀ kl ∈ ([(.attach, 7), (.detach, 5), (.groupRead, 6), (.groupAdd, 9), (.groupRemove, 9), (.groupSet, 12),
        (.groupDisband, 8), (.groupDigest, 7), (.hold, 8), (.release, 6), (.portRead, 6), (.portSet, 22), (.portClear, 6),
        (.portGive, 7), (.portClaim, 6), (.talkRequest, 7), (.talkStart, 5), (.talkEnd, 5), (.talkCancel, 5),
        (.floorClear, 6), (.presetRecall, 6), (.presetErase, 6), (.presetRead, 6), (.portsStore, 5)] : List (ReqKind × Nat)),
      (ReqKind.lengthFits kl.1 f = true ↔ f.length = kl.2)) ∧
    (ReqKind.noticeMask.lengthFits f = true ↔ 6 ≤ f.length ∧ f.length = 6 + (f.getD 3 0).toNat) ∧
    (ReqKind.consoleSet.lengthFits f = true ↔ 7 ≤ f.length ∧ f.length = 7 + (f.getD 4 0).toNat) ∧
    (ReqKind.presetStore.lengthFits f = true ↔ 7 ≤ f.length ∧ f.length = 7 + (f.getD 4 0).toNat)) ∧
  (∀ v : PortSettings, v.legal = true → PortSettings.ofBytes v.owner (asBytes v.numbers) = some v) ∧
  (∀ v : GroupSettings, v.legal = true →
    let b (n : Nat) : Byte := BitVec.ofNat 8 n
    GroupSettings.ofBytes (b v.hang) (b v.window) (b v.preempt) (b v.dissolve) = some v)

/-- The bytes of an outbound entry: its length, kind code, fields, and the check of the bytes before it, high byte first, so that
the check over the whole frame is 0 (R158). A response carries the kind and tag of its request, the status and the data (R159,
R162); a notice its fields (R159, R160, R166). -/
def Obligations.OutboundEntryBytes : Prop :=
  let frame (content : List Byte) : List Byte :=
    let body := BitVec.ofNat 8 (content.length + 3) :: content
    body ++ asBytes (twoBytes (crc body).toNat)
  let flag (b : Bool) : Nat := if b = true then 1 else 0
  let notice (n : Notice) (kind : Nat) (fields : List Nat) : Prop := (OutEntry.notice n).bytes = frame (asBytes (kind :: fields))
  (∀ e : OutEntry, crc e.bytes = 0) ∧
  (∀ (kind tag : Byte) (st : Status) (data : List Byte),
    (OutEntry.response kind tag st data).bytes = frame (kind :: tag :: st.code :: data)) ∧
  ([Status.ok, .busy, .stale, .held, .notOwner, .notMember, .badValue, .noSuch, .state, .consoleBusy, .detached, .starting,
    .unknownKind, .frameCheck, .length].map Status.code = asBytes (List.range 15)) ∧
  (∀ (g : GroupNo) (st : FloorState) (holder : Option Source) (mark : Bool) (cause : FloorCause),
    notice (.floor g st holder mark cause) 0x80
      [g.val, st.code.toNat, orNone (holder.map Source.number), flag mark, cause.code.toNat]) ∧
  (∀ g : GroupNo, notice (.grant g) 0x81 [g.val]) ∧
  (∀ (g : GroupNo) (cause : LapseCause), notice (.lapse g cause) 0x82 [g.val, cause.code.toNat]) ∧
  (∀ (g : GroupNo) (revision : Word) (cause : LayoutCause),
    notice (.layout g revision cause) 0x83 (g.val :: twoBytes revision.toNat ++ [cause.code.toNat])) ∧
  (∀ g : GroupNo, notice (.holdEnd g .timeout) 0x84 [g.val, 0]) ∧
  (∀ (p : PortNo) (st : PortState) (cause : PortCause), notice (.port p st cause) 0x85 [p.val, st.number, cause.code.toNat]) ∧
  (∀ (p : PortNo) (on : Bool) (level : Nat), notice (.carrier p on level) 0x86 [p.val, flag on, level]) ∧
  (∀ (c : CtlNo) (joined : Bool), notice (.controller c joined) 0x87 [c.val, flag joined]) ∧
  notice .lost 0x88 [] ∧
  ([FloorState.free, .pending, .talk, .hang].map FloorState.code = asBytes (List.range 4)) ∧
  ([FloorCause.granted, .resumed, .started, .ended, .hangExpired, .lapsed, .sourceLost, .removed, .portReset, .cleared, .layout,
    .preempted, .emergency].map FloorCause.code = asBytes (List.range 13)) ∧
  ([LapseCause.window, .cancelled, .preempted, .cleared, .layout].map LapseCause.code = asBytes (List.range 5)) ∧
  ([LayoutCause.request, .moved, .dissolve, .recall].map LayoutCause.code = asBytes (List.range 4)) ∧
  ([PortCause.txLimit, .carrierLimit, .cooldownEnd, .cleared, .linkDown, .linkUp, .restart, .preempted].map PortCause.code =
    asBytes (List.range 8))

/-! ## Invariants: each is kept by every step, whatever the command at the front of the queue -/

/-- The six invariants hold after a device reset. -/
def Obligations.InvariantsHoldAtReset : Prop :=
  let d := State.reset.part
  d.QueuesSound ∧ d.LayoutSound ∧ d.PortsSound ∧ d.FloorsSound ∧ d.HoldsSound ∧ d.PortsFollow

/-- Every step keeps the controller ports sound (R131, R132, R134, R135, R137, R138, R143, R145). -/
def Obligations.QueuesKept : Prop :=
  ∀ s s' : State, s.part.QueuesSound → step s = .next s' → s'.part.QueuesSound

/-- Every step keeps the layout sound, with the slot EMPTY that is being written or erased (R38, R40, R118, R120, R122, R127, R129). -/
def Obligations.LayoutKept : Prop :=
  ∀ s s' : State, s.part.LayoutSound → step s = .next s' → s'.part.LayoutSound

/-- Every step keeps the radio ports sound, no count past its length, and the record EMPTY while it is being written (R2, R3, R6 to
R8, R10, R11, R24, R113, R121, R127, R129). -/
def Obligations.PortsKept : Prop :=
  ∀ s s' : State, s.part.PortsSound → step s = .next s' → s'.part.PortsSound

/-- Every step keeps the floor records sound and in line with the consoles (R39, R70, R71, R97, R100), where the other invariants
hold. -/
def Obligations.FloorsKept : Prop :=
  ∀ s s' : State,
    s.part.QueuesSound → s.part.LayoutSound → s.part.PortsSound → s.part.FloorsSound → s.part.HoldsSound →
      s.part.PortsFollow → step s = .next s' → s'.part.FloorsSound

/-- Every step keeps the holds and dissolve timers sound (R50, R56). -/
def Obligations.HoldsKept : Prop :=
  ∀ s s' : State, s.part.LayoutSound → s.part.FloorsSound → s.part.HoldsSound → step s = .next s' → s'.part.HoldsSound

/-- Every step keeps the radio ports in line with the floors (R5, R13, R38, R73, R92). -/
def Obligations.PortsFollowKept : Prop :=
  ∀ s s' : State,
    s.part.QueuesSound → s.part.LayoutSound → s.part.PortsSound → s.part.FloorsSound → s.part.HoldsSound →
      s.part.PortsFollow → step s = .next s' → s'.part.PortsFollow
end

