-- ==== Sys2Proof/Laws/State.lean ====
section
/-!
SUPPORT. One lemma for each field under each update of the part, so that a proof names the field it reads and never unfolds a
record update.
-/

namespace Sys2Proof.Machine

/-! Tables. -/

theorem tget_ofFn {α : Type} {n : Nat} (f : Fin n → α) (i : Fin n) : tget (Vector.ofFn f) i = f i := by
  simp [tget]

theorem tget_replicate {α : Type} {n : Nat} (a : α) (i : Fin n) : tget (Vector.replicate n a) i = a := by
  simp [tget]

theorem tget_tmod {α : Type} {n : Nat} (t : Vector α n) (i j : Fin n) (f : α → α) :
    tget (tmod t i f) j = if j = i then f (tget t i) else tget t j := by
  unfold tget tmod
  by_cases h : j = i
  · subst h; simp [tget]
  · have h' : ¬ i.val = j.val := fun e => h (Fin.ext e.symm)
    simp [h, h']

theorem tget_tmap {α β : Type} {n : Nat} (f : Fin n → α → β) (t : Vector α n) (i : Fin n) :
    tget (tmap f t) i = f i (tget t i) := by
  simp [tmap, tget]

/-- Two tables that agree at every number are equal. -/
theorem tget_ext {α : Type} {n : Nat} {t u : Vector α n} (h : ∀ i, tget t i = tget u i) : t = u := by
  apply Vector.ext
  intro i hi
  exact h ⟨i, hi⟩


/-! Fields under an update of one record. -/

@[simp] theorem modPort_groups (d : Part) (p : PortNo) (f : PortRec → PortRec) : (d.modPort p f).groups = d.groups := rfl
@[simp] theorem modPort_floors (d : Part) (p : PortNo) (f : PortRec → PortRec) : (d.modPort p f).floors = d.floors := rfl
@[simp] theorem modPort_consoles (d : Part) (p : PortNo) (f : PortRec → PortRec) : (d.modPort p f).consoles = d.consoles := rfl
@[simp] theorem modPort_taken (d : Part) (p : PortNo) (f : PortRec → PortRec) : (d.modPort p f).taken = d.taken := rfl
@[simp] theorem modPort_transmit (d : Part) (p : PortNo) (f : PortRec → PortRec) : (d.modPort p f).transmit = d.transmit := rfl
@[simp] theorem modPort_peaks (d : Part) (p : PortNo) (f : PortRec → PortRec) : (d.modPort p f).peaks = d.peaks := rfl
@[simp] theorem modPort_blockFrames (d : Part) (p : PortNo) (f : PortRec → PortRec) : (d.modPort p f).blockFrames = d.blockFrames := rfl
@[simp] theorem modPort_slots (d : Part) (p : PortNo) (f : PortRec → PortRec) : (d.modPort p f).slots = d.slots := rfl
@[simp] theorem modPort_portsRecord (d : Part) (p : PortNo) (f : PortRec → PortRec) : (d.modPort p f).portsRecord = d.portsRecord := rfl
@[simp] theorem modPort_storeOp (d : Part) (p : PortNo) (f : PortRec → PortRec) : (d.modPort p f).storeOp = d.storeOp := rfl
@[simp] theorem modPort_ctls (d : Part) (p : PortNo) (f : PortRec → PortRec) : (d.modPort p f).ctls = d.ctls := rfl
theorem modPort_port (d : Part) (p i : PortNo) (f : PortRec → PortRec) :
    (d.modPort p f).port i = if i = p then f (d.port p) else d.port i := tget_tmod ..
@[simp] theorem modPort_port_self (d : Part) (p : PortNo) (f : PortRec → PortRec) : (d.modPort p f).port p = f (d.port p) := by
  simp [modPort_port]
@[simp] theorem modPort_group (d : Part) (p : PortNo) (f : PortRec → PortRec) (i : GroupNo) : (d.modPort p f).group i = d.group i := rfl
@[simp] theorem modPort_floor (d : Part) (p : PortNo) (f : PortRec → PortRec) (i : GroupNo) : (d.modPort p f).floor i = d.floor i := rfl
@[simp] theorem modPort_console (d : Part) (p : PortNo) (f : PortRec → PortRec) (i : CtlNo) : (d.modPort p f).console i = d.console i := rfl
@[simp] theorem modPort_ctl (d : Part) (p : PortNo) (f : PortRec → PortRec) (i : CtlNo) : (d.modPort p f).ctl i = d.ctl i := rfl

@[simp] theorem modGroup_ports (d : Part) (g : GroupNo) (f : GroupRec → GroupRec) : (d.modGroup g f).ports = d.ports := rfl
@[simp] theorem modGroup_floors (d : Part) (g : GroupNo) (f : GroupRec → GroupRec) : (d.modGroup g f).floors = d.floors := rfl
@[simp] theorem modGroup_consoles (d : Part) (g : GroupNo) (f : GroupRec → GroupRec) : (d.modGroup g f).consoles = d.consoles := rfl
@[simp] theorem modGroup_taken (d : Part) (g : GroupNo) (f : GroupRec → GroupRec) : (d.modGroup g f).taken = d.taken := rfl
@[simp] theorem modGroup_transmit (d : Part) (g : GroupNo) (f : GroupRec → GroupRec) : (d.modGroup g f).transmit = d.transmit := rfl
@[simp] theorem modGroup_peaks (d : Part) (g : GroupNo) (f : GroupRec → GroupRec) : (d.modGroup g f).peaks = d.peaks := rfl
@[simp] theorem modGroup_blockFrames (d : Part) (g : GroupNo) (f : GroupRec → GroupRec) : (d.modGroup g f).blockFrames = d.blockFrames := rfl
@[simp] theorem modGroup_slots (d : Part) (g : GroupNo) (f : GroupRec → GroupRec) : (d.modGroup g f).slots = d.slots := rfl
@[simp] theorem modGroup_portsRecord (d : Part) (g : GroupNo) (f : GroupRec → GroupRec) : (d.modGroup g f).portsRecord = d.portsRecord := rfl
@[simp] theorem modGroup_storeOp (d : Part) (g : GroupNo) (f : GroupRec → GroupRec) : (d.modGroup g f).storeOp = d.storeOp := rfl
@[simp] theorem modGroup_ctls (d : Part) (g : GroupNo) (f : GroupRec → GroupRec) : (d.modGroup g f).ctls = d.ctls := rfl
@[simp] theorem modGroup_port (d : Part) (g : GroupNo) (f : GroupRec → GroupRec) (i : PortNo) : (d.modGroup g f).port i = d.port i := rfl
theorem modGroup_group (d : Part) (g i : GroupNo) (f : GroupRec → GroupRec) :
    (d.modGroup g f).group i = if i = g then f (d.group g) else d.group i := tget_tmod ..
@[simp] theorem modGroup_group_self (d : Part) (g : GroupNo) (f : GroupRec → GroupRec) : (d.modGroup g f).group g = f (d.group g) := by
  simp [modGroup_group]
@[simp] theorem modGroup_floor (d : Part) (g : GroupNo) (f : GroupRec → GroupRec) (i : GroupNo) : (d.modGroup g f).floor i = d.floor i := rfl
@[simp] theorem modGroup_console (d : Part) (g : GroupNo) (f : GroupRec → GroupRec) (i : CtlNo) : (d.modGroup g f).console i = d.console i := rfl
@[simp] theorem modGroup_ctl (d : Part) (g : GroupNo) (f : GroupRec → GroupRec) (i : CtlNo) : (d.modGroup g f).ctl i = d.ctl i := rfl

@[simp] theorem modFloor_ports (d : Part) (g : GroupNo) (f : FloorRec → FloorRec) : (d.modFloor g f).ports = d.ports := rfl
@[simp] theorem modFloor_groups (d : Part) (g : GroupNo) (f : FloorRec → FloorRec) : (d.modFloor g f).groups = d.groups := rfl
@[simp] theorem modFloor_consoles (d : Part) (g : GroupNo) (f : FloorRec → FloorRec) : (d.modFloor g f).consoles = d.consoles := rfl
@[simp] theorem modFloor_taken (d : Part) (g : GroupNo) (f : FloorRec → FloorRec) : (d.modFloor g f).taken = d.taken := rfl
@[simp] theorem modFloor_transmit (d : Part) (g : GroupNo) (f : FloorRec → FloorRec) : (d.modFloor g f).transmit = d.transmit := rfl
@[simp] theorem modFloor_peaks (d : Part) (g : GroupNo) (f : FloorRec → FloorRec) : (d.modFloor g f).peaks = d.peaks := rfl
@[simp] theorem modFloor_blockFrames (d : Part) (g : GroupNo) (f : FloorRec → FloorRec) : (d.modFloor g f).blockFrames = d.blockFrames := rfl
@[simp] theorem modFloor_slots (d : Part) (g : GroupNo) (f : FloorRec → FloorRec) : (d.modFloor g f).slots = d.slots := rfl
@[simp] theorem modFloor_portsRecord (d : Part) (g : GroupNo) (f : FloorRec → FloorRec) : (d.modFloor g f).portsRecord = d.portsRecord := rfl
@[simp] theorem modFloor_storeOp (d : Part) (g : GroupNo) (f : FloorRec → FloorRec) : (d.modFloor g f).storeOp = d.storeOp := rfl
@[simp] theorem modFloor_ctls (d : Part) (g : GroupNo) (f : FloorRec → FloorRec) : (d.modFloor g f).ctls = d.ctls := rfl
@[simp] theorem modFloor_port (d : Part) (g : GroupNo) (f : FloorRec → FloorRec) (i : PortNo) : (d.modFloor g f).port i = d.port i := rfl
@[simp] theorem modFloor_group (d : Part) (g : GroupNo) (f : FloorRec → FloorRec) (i : GroupNo) : (d.modFloor g f).group i = d.group i := rfl
theorem modFloor_floor (d : Part) (g i : GroupNo) (f : FloorRec → FloorRec) :
    (d.modFloor g f).floor i = if i = g then f (d.floor g) else d.floor i := tget_tmod ..
@[simp] theorem modFloor_floor_self (d : Part) (g : GroupNo) (f : FloorRec → FloorRec) : (d.modFloor g f).floor g = f (d.floor g) := by
  simp [modFloor_floor]
@[simp] theorem modFloor_console (d : Part) (g : GroupNo) (f : FloorRec → FloorRec) (i : CtlNo) : (d.modFloor g f).console i = d.console i := rfl
@[simp] theorem modFloor_ctl (d : Part) (g : GroupNo) (f : FloorRec → FloorRec) (i : CtlNo) : (d.modFloor g f).ctl i = d.ctl i := rfl

@[simp] theorem modConsole_ports (d : Part) (c : CtlNo) (f : ConsoleRec → ConsoleRec) : (d.modConsole c f).ports = d.ports := rfl
@[simp] theorem modConsole_groups (d : Part) (c : CtlNo) (f : ConsoleRec → ConsoleRec) : (d.modConsole c f).groups = d.groups := rfl
@[simp] theorem modConsole_floors (d : Part) (c : CtlNo) (f : ConsoleRec → ConsoleRec) : (d.modConsole c f).floors = d.floors := rfl
@[simp] theorem modConsole_taken (d : Part) (c : CtlNo) (f : ConsoleRec → ConsoleRec) : (d.modConsole c f).taken = d.taken := rfl
@[simp] theorem modConsole_transmit (d : Part) (c : CtlNo) (f : ConsoleRec → ConsoleRec) : (d.modConsole c f).transmit = d.transmit := rfl
@[simp] theorem modConsole_peaks (d : Part) (c : CtlNo) (f : ConsoleRec → ConsoleRec) : (d.modConsole c f).peaks = d.peaks := rfl
@[simp] theorem modConsole_blockFrames (d : Part) (c : CtlNo) (f : ConsoleRec → ConsoleRec) : (d.modConsole c f).blockFrames = d.blockFrames := rfl
@[simp] theorem modConsole_slots (d : Part) (c : CtlNo) (f : ConsoleRec → ConsoleRec) : (d.modConsole c f).slots = d.slots := rfl
@[simp] theorem modConsole_portsRecord (d : Part) (c : CtlNo) (f : ConsoleRec → ConsoleRec) : (d.modConsole c f).portsRecord = d.portsRecord := rfl
@[simp] theorem modConsole_storeOp (d : Part) (c : CtlNo) (f : ConsoleRec → ConsoleRec) : (d.modConsole c f).storeOp = d.storeOp := rfl
@[simp] theorem modConsole_ctls (d : Part) (c : CtlNo) (f : ConsoleRec → ConsoleRec) : (d.modConsole c f).ctls = d.ctls := rfl
@[simp] theorem modConsole_port (d : Part) (c : CtlNo) (f : ConsoleRec → ConsoleRec) (i : PortNo) : (d.modConsole c f).port i = d.port i := rfl
@[simp] theorem modConsole_group (d : Part) (c : CtlNo) (f : ConsoleRec → ConsoleRec) (i : GroupNo) : (d.modConsole c f).group i = d.group i := rfl
@[simp] theorem modConsole_floor (d : Part) (c : CtlNo) (f : ConsoleRec → ConsoleRec) (i : GroupNo) : (d.modConsole c f).floor i = d.floor i := rfl
theorem modConsole_console (d : Part) (c i : CtlNo) (f : ConsoleRec → ConsoleRec) :
    (d.modConsole c f).console i = if i = c then f (d.console c) else d.console i := tget_tmod ..
@[simp] theorem modConsole_console_self (d : Part) (c : CtlNo) (f : ConsoleRec → ConsoleRec) : (d.modConsole c f).console c = f (d.console c) := by
  simp [modConsole_console]
@[simp] theorem modConsole_ctl (d : Part) (c : CtlNo) (f : ConsoleRec → ConsoleRec) (i : CtlNo) : (d.modConsole c f).ctl i = d.ctl i := rfl

@[simp] theorem modCtl_ports (d : Part) (c : CtlNo) (f : CtlPort → CtlPort) : (d.modCtl c f).ports = d.ports := rfl
@[simp] theorem modCtl_groups (d : Part) (c : CtlNo) (f : CtlPort → CtlPort) : (d.modCtl c f).groups = d.groups := rfl
@[simp] theorem modCtl_floors (d : Part) (c : CtlNo) (f : CtlPort → CtlPort) : (d.modCtl c f).floors = d.floors := rfl
@[simp] theorem modCtl_consoles (d : Part) (c : CtlNo) (f : CtlPort → CtlPort) : (d.modCtl c f).consoles = d.consoles := rfl
@[simp] theorem modCtl_taken (d : Part) (c : CtlNo) (f : CtlPort → CtlPort) : (d.modCtl c f).taken = d.taken := rfl
@[simp] theorem modCtl_transmit (d : Part) (c : CtlNo) (f : CtlPort → CtlPort) : (d.modCtl c f).transmit = d.transmit := rfl
@[simp] theorem modCtl_peaks (d : Part) (c : CtlNo) (f : CtlPort → CtlPort) : (d.modCtl c f).peaks = d.peaks := rfl
@[simp] theorem modCtl_blockFrames (d : Part) (c : CtlNo) (f : CtlPort → CtlPort) : (d.modCtl c f).blockFrames = d.blockFrames := rfl
@[simp] theorem modCtl_slots (d : Part) (c : CtlNo) (f : CtlPort → CtlPort) : (d.modCtl c f).slots = d.slots := rfl
@[simp] theorem modCtl_portsRecord (d : Part) (c : CtlNo) (f : CtlPort → CtlPort) : (d.modCtl c f).portsRecord = d.portsRecord := rfl
@[simp] theorem modCtl_storeOp (d : Part) (c : CtlNo) (f : CtlPort → CtlPort) : (d.modCtl c f).storeOp = d.storeOp := rfl
@[simp] theorem modCtl_port (d : Part) (c : CtlNo) (f : CtlPort → CtlPort) (i : PortNo) : (d.modCtl c f).port i = d.port i := rfl
@[simp] theorem modCtl_group (d : Part) (c : CtlNo) (f : CtlPort → CtlPort) (i : GroupNo) : (d.modCtl c f).group i = d.group i := rfl
@[simp] theorem modCtl_floor (d : Part) (c : CtlNo) (f : CtlPort → CtlPort) (i : GroupNo) : (d.modCtl c f).floor i = d.floor i := rfl
@[simp] theorem modCtl_console (d : Part) (c : CtlNo) (f : CtlPort → CtlPort) (i : CtlNo) : (d.modCtl c f).console i = d.console i := rfl
theorem modCtl_ctl (d : Part) (c i : CtlNo) (f : CtlPort → CtlPort) :
    (d.modCtl c f).ctl i = if i = c then f (d.ctl c) else d.ctl i := tget_tmod ..
@[simp] theorem modCtl_ctl_self (d : Part) (c : CtlNo) (f : CtlPort → CtlPort) : (d.modCtl c f).ctl c = f (d.ctl c) := by
  simp [modCtl_ctl]

@[simp] theorem setSlot_ports (d : Part) (i : SlotNo) (v : Option Preset) : (d.setSlot i v).ports = d.ports := rfl
@[simp] theorem setSlot_groups (d : Part) (i : SlotNo) (v : Option Preset) : (d.setSlot i v).groups = d.groups := rfl
@[simp] theorem setSlot_floors (d : Part) (i : SlotNo) (v : Option Preset) : (d.setSlot i v).floors = d.floors := rfl
@[simp] theorem setSlot_consoles (d : Part) (i : SlotNo) (v : Option Preset) : (d.setSlot i v).consoles = d.consoles := rfl
@[simp] theorem setSlot_taken (d : Part) (i : SlotNo) (v : Option Preset) : (d.setSlot i v).taken = d.taken := rfl
@[simp] theorem setSlot_transmit (d : Part) (i : SlotNo) (v : Option Preset) : (d.setSlot i v).transmit = d.transmit := rfl
@[simp] theorem setSlot_peaks (d : Part) (i : SlotNo) (v : Option Preset) : (d.setSlot i v).peaks = d.peaks := rfl
@[simp] theorem setSlot_blockFrames (d : Part) (i : SlotNo) (v : Option Preset) : (d.setSlot i v).blockFrames = d.blockFrames := rfl
@[simp] theorem setSlot_portsRecord (d : Part) (i : SlotNo) (v : Option Preset) : (d.setSlot i v).portsRecord = d.portsRecord := rfl
@[simp] theorem setSlot_storeOp (d : Part) (i : SlotNo) (v : Option Preset) : (d.setSlot i v).storeOp = d.storeOp := rfl
@[simp] theorem setSlot_ctls (d : Part) (i : SlotNo) (v : Option Preset) : (d.setSlot i v).ctls = d.ctls := rfl
@[simp] theorem setSlot_port (d : Part) (i : SlotNo) (v : Option Preset) (j : PortNo) : (d.setSlot i v).port j = d.port j := rfl
@[simp] theorem setSlot_group (d : Part) (i : SlotNo) (v : Option Preset) (j : GroupNo) : (d.setSlot i v).group j = d.group j := rfl
@[simp] theorem setSlot_floor (d : Part) (i : SlotNo) (v : Option Preset) (j : GroupNo) : (d.setSlot i v).floor j = d.floor j := rfl
@[simp] theorem setSlot_console (d : Part) (i : SlotNo) (v : Option Preset) (j : CtlNo) : (d.setSlot i v).console j = d.console j := rfl
@[simp] theorem setSlot_ctl (d : Part) (i : SlotNo) (v : Option Preset) (j : CtlNo) : (d.setSlot i v).ctl j = d.ctl j := rfl
theorem setSlot_slot (d : Part) (i j : SlotNo) (v : Option Preset) :
    tget (d.setSlot i v).slots j = if j = i then v else tget d.slots j := tget_tmod ..

/-! Views of a part written out field by field. -/

theorem port_mk (d : Part) (i : PortNo) : tget d.ports i = d.port i := rfl
theorem group_mk (d : Part) (i : GroupNo) : tget d.groups i = d.group i := rfl
theorem floor_mk (d : Part) (i : GroupNo) : tget d.floors i = d.floor i := rfl
theorem console_mk (d : Part) (i : CtlNo) : tget d.consoles i = d.console i := rfl
theorem ctl_mk (d : Part) (i : CtlNo) : tget d.ctls i = d.ctl i := rfl

/-- Two parts with equal records, fields and samples are equal. -/
theorem Part.ext_views {d e : Part} (hp : ∀ p, d.port p = e.port p) (hg : ∀ g, d.group g = e.group g)
    (hf : ∀ g, d.floor g = e.floor g) (hc : ∀ c, d.console c = e.console c) (hq : ∀ c, d.ctl c = e.ctl c)
    (h1 : d.taken = e.taken) (h2 : d.transmit = e.transmit) (h3 : d.peaks = e.peaks)
    (h4 : d.blockFrames = e.blockFrames) (h5 : d.slots = e.slots) (h6 : d.portsRecord = e.portsRecord)
    (h7 : d.storeOp = e.storeOp) : d = e := by
  cases d; cases e
  have a1 := tget_ext hp
  have a2 := tget_ext hg
  have a3 := tget_ext hf
  have a4 := tget_ext hc
  have a5 := tget_ext hq
  simp only at a1 a2 a3 a4 a5 h1 h2 h3 h4 h5 h6 h7
  subst a1 a2 a3 a4 a5 h1 h2 h3 h4 h5 h6 h7
  rfl

/-! Runs over lists. -/

@[simp] theorem each_nil {α : Type} (f : α → Part → Part) (d : Part) : Part.each f [] d = d := rfl
@[simp] theorem each_cons {α : Type} (f : α → Part → Part) (a : α) (l : List α) (d : Part) :
    Part.each f (a :: l) d = Part.each f l (f a d) := rfl

/-- A property that every call keeps holds at the end of the run. -/
theorem each_induct {α : Type} (P : Part → Prop) (f : α → Part → Part) (h : ∀ a d, P d → P (f a d)) :
    ∀ (l : List α) (d : Part), P d → P (Part.each f l d)
  | [], _, hd => hd
  | a :: l, d, hd => each_induct P f h l (f a d) (h a d hd)

/-- A relation that is reflexive and transitive and that every call satisfies holds across the run. -/
theorem each_rel {α : Type} (R : Part → Part → Prop) (f : α → Part → Part) (hr : ∀ d, R d d)
    (ht : ∀ a b c, R a b → R b c → R a c) (h : ∀ a d, R d (f a d)) :
    ∀ (l : List α) (d : Part), R d (Part.each f l d)
  | [], d => hr d
  | a :: l, d => ht _ _ _ (h a d) (each_rel R f hr ht h l (f a d))

end Sys2Proof.Machine
end

