-- ==== Sys2Proof/Laws/Ops.lean ====
section
/-!
SUPPORT. What the shared operations of Machine/Ops.lean and the sweeps of Machine/Arbiter.lean do, each said once.
-/

namespace Sys2Proof.Machine

/-! Notices. -/

section notify
variable (d : Part) (rc : CtlNo → Bool) (n : Notice)

@[simp] theorem notify_ports : (d.notify rc n).ports = d.ports := rfl
@[simp] theorem notify_groups : (d.notify rc n).groups = d.groups := rfl
@[simp] theorem notify_floors : (d.notify rc n).floors = d.floors := rfl
@[simp] theorem notify_consoles : (d.notify rc n).consoles = d.consoles := rfl
@[simp] theorem notify_taken : (d.notify rc n).taken = d.taken := rfl
@[simp] theorem notify_transmit : (d.notify rc n).transmit = d.transmit := rfl
@[simp] theorem notify_peaks : (d.notify rc n).peaks = d.peaks := rfl
@[simp] theorem notify_blockFrames : (d.notify rc n).blockFrames = d.blockFrames := rfl
@[simp] theorem notify_slots : (d.notify rc n).slots = d.slots := rfl
@[simp] theorem notify_portsRecord : (d.notify rc n).portsRecord = d.portsRecord := rfl
@[simp] theorem notify_storeOp : (d.notify rc n).storeOp = d.storeOp := rfl
@[simp] theorem notify_port (p : PortNo) : (d.notify rc n).port p = d.port p := rfl
@[simp] theorem notify_group (g : GroupNo) : (d.notify rc n).group g = d.group g := rfl
@[simp] theorem notify_floor (g : GroupNo) : (d.notify rc n).floor g = d.floor g := rfl
@[simp] theorem notify_console (c : CtlNo) : (d.notify rc n).console c = d.console c := rfl
theorem notify_ctl (c : CtlNo) : (d.notify rc n).ctl c = if rc c then (d.ctl c).admitNotice n else d.ctl c := tget_tmap ..

end notify

@[simp] theorem receives_nil (q : CtlPort) : q.receives [] = q := rfl
@[simp] theorem receives_cons (n : Notice) (ns : List Notice) (q : CtlPort) :
    q.receives (n :: ns) = (q.admitNotice n).receives ns := rfl
theorem receives_append (ns ms : List Notice) (q : CtlPort) : q.receives (ns ++ ms) = (q.receives ns).receives ms := by
  simp [CtlPort.receives, List.foldl_append]

/-- A notify as the notices each controller receives. -/
theorem notify_receives (d : Part) (rc : CtlNo → Bool) (n : Notice) (c : CtlNo) :
    (d.notify rc n).ctl c = (d.ctl c).receives (toAll rc n c) := by
  rw [notify_ctl]; unfold toAll; split <;> simp

/-! Orders to one port. -/

section settle
variable (was : Bool) (r : PortRec)

/-- Settling a change writes the carrier, the run count and the hysteresis, and nothing else. -/
theorem settle_eq : r.settle was =
    { r with carrier := (r.settle was).carrier, runCount := (r.settle was).runCount, hysteresis := (r.settle was).hysteresis } := by
  unfold PortRec.settle PortRec.filterRestart
  by_cases h1 : r.suppressed = true <;> by_cases h2 : was = true <;> simp [h1, h2]

@[simp] theorem settle_settings : (r.settle was).settings = r.settings := by rw [settle_eq]
@[simp] theorem settle_state : (r.settle was).state = r.state := by rw [settle_eq]
@[simp] theorem settle_guard : (r.settle was).guard = r.guard := by rw [settle_eq]
@[simp] theorem settle_linkUp : (r.settle was).linkUp = r.linkUp := by rw [settle_eq]
@[simp] theorem settle_linkCount : (r.settle was).linkCount = r.linkCount := by rw [settle_eq]
@[simp] theorem settle_restartPhase : (r.settle was).restartPhase = r.restartPhase := by rw [settle_eq]
@[simp] theorem settle_restartTimer : (r.settle was).restartTimer = r.restartTimer := by rw [settle_eq]
@[simp] theorem settle_rawLevel : (r.settle was).rawLevel = r.rawLevel := by rw [settle_eq]
@[simp] theorem settle_emergency : (r.settle was).emergency = r.emergency := by rw [settle_eq]
@[simp] theorem settle_emergencyCount : (r.settle was).emergencyCount = r.emergencyCount := by rw [settle_eq]
@[simp] theorem settle_runLength : (r.settle was).runLength = r.runLength := by rw [settle_eq]
@[simp] theorem settle_transmitTimer : (r.settle was).transmitTimer = r.transmitTimer := by rw [settle_eq]
@[simp] theorem settle_carrierTimer : (r.settle was).carrierTimer = r.carrierTimer := by rw [settle_eq]
@[simp] theorem settle_cooldownTimer : (r.settle was).cooldownTimer = r.cooldownTimer := by rw [settle_eq]

end settle

@[simp] theorem goTo_state (st : PortState) (r : PortRec) : (r.goTo st).state = st := by
  simp only [PortRec.goTo, PortRec.change, settle_state]
  unfold PortRec.enter PortRec.startGuard
  repeat' split
  all_goals rfl

/-- A second key order to a port finds nothing to do. -/
theorem key_key (r : PortRec) : r.key.key = r.key := by
  unfold PortRec.key
  by_cases h : r.state = .idle <;> simp [h]

/-- A second unkey order to a port finds nothing to do. -/
theorem unkey_unkey (r : PortRec) : r.unkey.unkey = r.unkey := by
  unfold PortRec.unkey
  by_cases h : r.state = .keyed <;> simp [h]

/-! A run of one idempotent order over a list of ports. -/

theorem each_modPort_fields (f : PortRec → PortRec) (ms : List PortNo) (d : Part) :
    Part.each (fun p d => d.modPort p f) ms d = { d with ports := (Part.each (fun p d => d.modPort p f) ms d).ports } := by
  induction ms generalizing d with
  | nil => rfl
  | cons m ms ih =>
    rw [each_cons, ih (d.modPort m f)]
    rfl

theorem each_modPort_port (f : PortRec → PortRec) (hf : ∀ r, f (f r) = f r) (ms : List PortNo) (d : Part) (p : PortNo) :
    (Part.each (fun p d => d.modPort p f) ms d).port p = if p ∈ ms then f (d.port p) else d.port p := by
  induction ms generalizing d with
  | nil => simp
  | cons m ms ih =>
    rw [each_cons, ih, modPort_port]
    by_cases h1 : p = m
    · subst h1; by_cases h2 : p ∈ ms <;> simp [h2, hf]
    · by_cases h2 : p ∈ ms <;> simp [h1, h2]

/-- The unkey sweep: an unkey order to every member. -/
theorem unkeySweep_port (g : GroupNo) (d : Part) (p : PortNo) :
    (d.unkeySweep g).port p = if p ∈ (d.group g).members then (d.port p).unkey else d.port p :=
  each_modPort_port _ unkey_unkey _ _ _

theorem unkeySweep_fields (g : GroupNo) (d : Part) : d.unkeySweep g = { d with ports := (d.unkeySweep g).ports } :=
  each_modPort_fields _ _ _

theorem each_keyMember_fields (g : GroupNo) (ms : List PortNo) (d : Part) :
    Part.each (Part.keyMember g) ms d = { d with ports := (Part.each (Part.keyMember g) ms d).ports } := by
  induction ms generalizing d with
  | nil => rfl
  | cons m ms ih =>
    rw [each_cons, ih (d.keyMember g m)]
    unfold Part.keyMember
    split <;> rfl

theorem each_keyMember_port (g : GroupNo) (ms : List PortNo) (d : Part) (p : PortNo) :
    (Part.each (Part.keyMember g) ms d).port p =
      if p ∈ ms ∧ (d.floor g).holder ≠ some (.port p) then (d.port p).key else d.port p := by
  induction ms generalizing d with
  | nil => simp
  | cons m ms ih =>
    rw [each_cons, ih]
    have hfl : (d.keyMember g m).floor g = d.floor g := by unfold Part.keyMember; split <;> rfl
    rw [hfl]
    have hp : (d.keyMember g m).port p = if p = m ∧ (d.floor g).holder ≠ some (.port p) then (d.port p).key else d.port p := by
      unfold Part.keyMember
      by_cases h1 : p = m
      · subst h1; by_cases h : (d.floor g).holder = some (.port p) <;> simp [h]
      · by_cases h : (d.floor g).holder = some (.port m) <;> simp [h, h1, modPort_port]
    rw [hp]
    by_cases h1 : p = m
    · subst h1
      by_cases h2 : p ∈ ms <;> by_cases h3 : (d.floor g).holder = some (.port p) <;> simp [h2, h3, key_key]
    · by_cases h2 : p ∈ ms <;> by_cases h3 : (d.floor g).holder = some (.port p) <;> simp [h1, h2, h3]

/-- The key sweep: a key order to every member that is not the floor holder. -/
theorem keySweep_port (g : GroupNo) (d : Part) (p : PortNo) :
    (d.keySweep g).port p =
      if p ∈ (d.group g).members ∧ (d.floor g).holder ≠ some (.port p) then (d.port p).key else d.port p :=
  each_keyMember_port ..

theorem keySweep_fields (g : GroupNo) (d : Part) : d.keySweep g = { d with ports := (d.keySweep g).ports } :=
  each_keyMember_fields ..

/-! Dissolve timer and holds. -/

section refresh
variable (g : GroupNo) (d : Part)

@[simp] theorem refreshDissolve_ports : (d.refreshDissolve g).ports = d.ports := rfl
@[simp] theorem refreshDissolve_floors : (d.refreshDissolve g).floors = d.floors := rfl
@[simp] theorem refreshDissolve_consoles : (d.refreshDissolve g).consoles = d.consoles := rfl
@[simp] theorem refreshDissolve_taken : (d.refreshDissolve g).taken = d.taken := rfl
@[simp] theorem refreshDissolve_transmit : (d.refreshDissolve g).transmit = d.transmit := rfl
@[simp] theorem refreshDissolve_peaks : (d.refreshDissolve g).peaks = d.peaks := rfl
@[simp] theorem refreshDissolve_blockFrames : (d.refreshDissolve g).blockFrames = d.blockFrames := rfl
@[simp] theorem refreshDissolve_slots : (d.refreshDissolve g).slots = d.slots := rfl
@[simp] theorem refreshDissolve_portsRecord : (d.refreshDissolve g).portsRecord = d.portsRecord := rfl
@[simp] theorem refreshDissolve_storeOp : (d.refreshDissolve g).storeOp = d.storeOp := rfl
@[simp] theorem refreshDissolve_ctls : (d.refreshDissolve g).ctls = d.ctls := rfl
@[simp] theorem refreshDissolve_port (p : PortNo) : (d.refreshDissolve g).port p = d.port p := rfl
@[simp] theorem refreshDissolve_floor (h : GroupNo) : (d.refreshDissolve g).floor h = d.floor h := rfl
@[simp] theorem refreshDissolve_console (c : CtlNo) : (d.refreshDissolve g).console c = d.console c := rfl
@[simp] theorem refreshDissolve_ctl (c : CtlNo) : (d.refreshDissolve g).ctl c = d.ctl c := rfl

theorem refreshDissolve_group (h : GroupNo) :
    (d.refreshDissolve g).group h = if h = g then (d.group g).timed ((d.floor g).state = .free) else d.group h := by
  unfold Part.refreshDissolve
  rw [modGroup_group]
  by_cases hh : h = g
  · simp only [hh, if_true]
    unfold GroupRec.timed Part.dissolveCondition GroupRec.formed startTimer dissolveFrames Config.sec
    congr 1
    have hm : (d.group g).members.isEmpty = true ↔ (d.group g).members = [] := List.isEmpty_iff
    cases hd : (d.group g).dissolveTimer <;> simp [Nat.mul_comm, ← Nat.mul_assoc] <;>
      grind
  · simp [hh]

end refresh

end Sys2Proof.Machine
end

