-- ==== Sys2Proof/Laws/Floor.lean ====
section
/-!
SUPPORT. What the operations of the floor arbiter do, as `Part.FloorGoes` says it: once for each way the floor goes to a holder
or to FREE.
-/

namespace Sys2Proof.Machine

/-! Fields that the sweeps and the first steps leave. -/

section fields
variable (g : GroupNo) (d : Part)

@[simp] theorem keySweep_groups : (d.keySweep g).groups = d.groups := by rw [keySweep_fields]
@[simp] theorem keySweep_floors : (d.keySweep g).floors = d.floors := by rw [keySweep_fields]
@[simp] theorem keySweep_consoles : (d.keySweep g).consoles = d.consoles := by rw [keySweep_fields]
@[simp] theorem keySweep_ctls : (d.keySweep g).ctls = d.ctls := by rw [keySweep_fields]
@[simp] theorem keySweep_group (h : GroupNo) : (d.keySweep g).group h = d.group h := by rw [keySweep_fields]; rfl
@[simp] theorem keySweep_floor (h : GroupNo) : (d.keySweep g).floor h = d.floor h := by rw [keySweep_fields]; rfl
@[simp] theorem keySweep_console (c : CtlNo) : (d.keySweep g).console c = d.console c := by rw [keySweep_fields]; rfl
@[simp] theorem keySweep_ctl (c : CtlNo) : (d.keySweep g).ctl c = d.ctl c := by rw [keySweep_fields]; rfl
@[simp] theorem unkeySweep_groups : (d.unkeySweep g).groups = d.groups := by rw [unkeySweep_fields]
@[simp] theorem unkeySweep_floors : (d.unkeySweep g).floors = d.floors := by rw [unkeySweep_fields]
@[simp] theorem unkeySweep_consoles : (d.unkeySweep g).consoles = d.consoles := by rw [unkeySweep_fields]
@[simp] theorem unkeySweep_ctls : (d.unkeySweep g).ctls = d.ctls := by rw [unkeySweep_fields]
@[simp] theorem unkeySweep_group (h : GroupNo) : (d.unkeySweep g).group h = d.group h := by rw [unkeySweep_fields]; rfl
@[simp] theorem unkeySweep_floor (h : GroupNo) : (d.unkeySweep g).floor h = d.floor h := by rw [unkeySweep_fields]; rfl
@[simp] theorem unkeySweep_console (c : CtlNo) : (d.unkeySweep g).console c = d.console c := by rw [unkeySweep_fields]; rfl
@[simp] theorem unkeySweep_ctl (c : CtlNo) : (d.unkeySweep g).ctl c = d.ctl c := by rw [unkeySweep_fields]; rfl

end fields

/-! The fields of the part that no floor operation writes. -/

@[simp] theorem Part.SameRest.refl (d : Part) : d.SameRest d := ⟨rfl, rfl, rfl, rfl, rfl, rfl, rfl⟩

theorem Part.SameRest.trans {a b c : Part} (h1 : a.SameRest b) (h2 : b.SameRest c) : a.SameRest c :=
  ⟨h2.1.trans h1.1, h2.2.1.trans h1.2.1, h2.2.2.1.trans h1.2.2.1, h2.2.2.2.1.trans h1.2.2.2.1,
   h2.2.2.2.2.1.trans h1.2.2.2.2.1, h2.2.2.2.2.2.1.trans h1.2.2.2.2.2.1, h2.2.2.2.2.2.2.trans h1.2.2.2.2.2.2⟩

theorem Part.SameRest.symm {a b : Part} (h : a.SameRest b) : b.SameRest a :=
  ⟨h.1.symm, h.2.1.symm, h.2.2.1.symm, h.2.2.2.1.symm, h.2.2.2.2.1.symm, h.2.2.2.2.2.1.symm, h.2.2.2.2.2.2.symm⟩

theorem Part.SameRest.iff {d e e' : Part} (h : e.SameRest e') : d.SameRest e' ↔ d.SameRest e :=
  ⟨fun x => x.trans h.symm, fun x => x.trans h⟩

section rest
variable (d e : Part)

@[simp] theorem sameRest_modPort (p : PortNo) (f : PortRec → PortRec) : d.SameRest (e.modPort p f) ↔ d.SameRest e := Iff.rfl
@[simp] theorem sameRest_modGroup (g : GroupNo) (f : GroupRec → GroupRec) : d.SameRest (e.modGroup g f) ↔ d.SameRest e := Iff.rfl
@[simp] theorem sameRest_modFloor (g : GroupNo) (f : FloorRec → FloorRec) : d.SameRest (e.modFloor g f) ↔ d.SameRest e := Iff.rfl
@[simp] theorem sameRest_modConsole (c : CtlNo) (f : ConsoleRec → ConsoleRec) : d.SameRest (e.modConsole c f) ↔ d.SameRest e := Iff.rfl
@[simp] theorem sameRest_modCtl (c : CtlNo) (f : CtlPort → CtlPort) : d.SameRest (e.modCtl c f) ↔ d.SameRest e := Iff.rfl
@[simp] theorem sameRest_notify (rc : CtlNo → Bool) (n : Notice) : d.SameRest (e.notify rc n) ↔ d.SameRest e := Iff.rfl
@[simp] theorem sameRest_refresh (g : GroupNo) : d.SameRest (e.refreshDissolve g) ↔ d.SameRest e := Iff.rfl
@[simp] theorem sameRest_keySweep (g : GroupNo) : d.SameRest (e.keySweep g) ↔ d.SameRest e := by rw [keySweep_fields]; rfl
@[simp] theorem sameRest_unkeySweep (g : GroupNo) : d.SameRest (e.unkeySweep g) ↔ d.SameRest e := by rw [unkeySweep_fields]; rfl
@[simp] theorem sameRest_involve (src : Source) (i : Involvement) : d.SameRest (e.involve src i) ↔ d.SameRest e := by
  cases src <;> exact Iff.rfl
@[simp] theorem sameRest_vacate (g : GroupNo) : d.SameRest (e.vacate g) ↔ d.SameRest e := by
  unfold Part.vacate
  cases (e.floor g).holder <;> simp
@[simp] theorem sameRest_lapseNotice (g : GroupNo) (cause : LapseCause) (src : Option Source) :
    d.SameRest (e.lapseNotice g cause src) ↔ d.SameRest e := by
  rcases src with _ | _ | _ <;> exact Iff.rfl
@[simp] theorem sameRest_floorNotice (g : GroupNo) (cause : FloorCause) : d.SameRest (e.floorNotice g cause) ↔ d.SameRest e := Iff.rfl
@[simp] theorem sameRest_portNotice (p : PortNo) (cause : PortCause) : d.SameRest (e.portNotice p cause) ↔ d.SameRest e := Iff.rfl
@[simp] theorem sameRest_carrierNotice (p : PortNo) (on : Bool) : d.SameRest (e.carrierNotice p on) ↔ d.SameRest e := by
  unfold Part.carrierNotice
  by_cases h : (e.port p).settings.trigger.allows on = true <;> simp [h]
end rest

/-! Involvement and holder. -/

section involve
variable (d : Part) (src : Source) (i : Involvement)

@[simp] theorem involve_ports : (d.involve src i).ports = d.ports := by cases src <;> rfl
@[simp] theorem involve_groups : (d.involve src i).groups = d.groups := by cases src <;> rfl
@[simp] theorem involve_floors : (d.involve src i).floors = d.floors := by cases src <;> rfl
@[simp] theorem involve_ctls : (d.involve src i).ctls = d.ctls := by cases src <;> rfl
@[simp] theorem involve_port (p : PortNo) : (d.involve src i).port p = d.port p := by cases src <;> rfl
@[simp] theorem involve_group (g : GroupNo) : (d.involve src i).group g = d.group g := by cases src <;> rfl
@[simp] theorem involve_floor (g : GroupNo) : (d.involve src i).floor g = d.floor g := by cases src <;> rfl
@[simp] theorem involve_ctl (c : CtlNo) : (d.involve src i).ctl c = d.ctl c := by cases src <;> rfl
theorem involve_console (c : CtlNo) :
    (d.involve src i).console c = if src = .console c then { d.console c with involvement := i } else d.console c := by
  cases src with
  | port p => simp [Part.involve]
  | console k =>
    simp only [Part.involve, modConsole_console, Source.console.injEq]
    by_cases h : c = k
    · subst h; simp
    · have : ¬ k = c := fun e => h e.symm
      simp [h, this]

end involve

section vacate
variable (g : GroupNo) (d : Part)

theorem vacate_floor (h : GroupNo) :
    (d.vacate g).floor h = if h = g then { d.floor g with holder := none } else d.floor h := by
  unfold Part.vacate
  cases (d.floor g).holder <;> simp [modFloor_floor]

@[simp] theorem vacate_port (p : PortNo) : (d.vacate g).port p = d.port p := by
  unfold Part.vacate; cases (d.floor g).holder <;> simp
@[simp] theorem vacate_group (h : GroupNo) : (d.vacate g).group h = d.group h := by
  unfold Part.vacate; cases (d.floor g).holder <;> simp
@[simp] theorem vacate_ctl (c : CtlNo) : (d.vacate g).ctl c = d.ctl c := by
  unfold Part.vacate; cases (d.floor g).holder <;> simp
theorem vacate_console (c : CtlNo) :
    (d.vacate g).console c =
      if (d.floor g).holder = some (.console c) then { d.console c with involvement := .none } else d.console c := by
  unfold Part.vacate; cases h : (d.floor g).holder <;> simp [involve_console]

end vacate

/-! Freeing, granting, passing on. -/

/-- A freed floor. -/
theorem freeFloor_floor (g : GroupNo) (d : Part) (h : GroupNo) :
    (d.freeFloor g).floor h = if h = g then FloorRec.reset else d.floor h := by
  unfold Part.freeFloor FloorRec.freed
  by_cases hh : h = g <;> simp [modFloor_floor, vacate_floor, hh]

theorem freeFloor_group (g : GroupNo) (d : Part) (h : GroupNo) :
    (d.freeFloor g).group h = if h = g then (d.group g).timed true else d.group h := by
  unfold Part.freeFloor
  rw [refreshDissolve_group]
  by_cases hh : h = g <;> simp [hh, FloorRec.freed, FloorRec.reset]

@[simp] theorem freeFloor_port (g : GroupNo) (d : Part) (p : PortNo) : (d.freeFloor g).port p = d.port p := by
  unfold Part.freeFloor; simp
@[simp] theorem freeFloor_ctl (g : GroupNo) (d : Part) (c : CtlNo) : (d.freeFloor g).ctl c = d.ctl c := by
  unfold Part.freeFloor; simp
theorem freeFloor_console (g : GroupNo) (d : Part) (c : CtlNo) :
    (d.freeFloor g).console c =
      if (d.floor g).holder = some (.console c) then { d.console c with involvement := .none } else d.console c := by
  unfold Part.freeFloor; simp [vacate_console]
@[simp] theorem sameRest_freeFloor (g : GroupNo) (d e : Part) : d.SameRest (e.freeFloor g) ↔ d.SameRest e := by
  unfold Part.freeFloor; simp

/-- A grant: the record of the floor given to `src`, with the list and the count as they stand. -/
theorem grantTo_goes (g : GroupNo) (src : Source) (mark : Bool) (d : Part) :
    d.FloorGoes (d.grantTo g src mark) g
      (FloorRec.givenTo src mark (d.group g).settings.window (d.floor g).waiting (d.floor g).lowTurn) (fun _ => []) := by
  unfold Part.grantTo
  cases src with
  | port p =>
    refine ⟨?_, ?_, ?_, ?_, ?_, ?_⟩
    · intro h; by_cases hh : h = g <;> simp [modFloor_floor, vacate_floor, hh, FloorRec.granted, FloorRec.givenTo, FloorRec.reset]
    · intro q
      simp only [refreshDissolve_port, keySweep_port, modPort_group, modFloor_group, vacate_group, modPort_floor,
        modFloor_floor, if_true, FloorRec.granted, FloorRec.givenTo, modPort_port, modFloor_port, vacate_port]
      by_cases h1 : q = p
      · subst h1; simp
      · have : ¬ p = q := fun e => h1 e.symm
        simp [h1, this]
    · intro h
      rw [refreshDissolve_group]
      by_cases hh : h = g <;> simp [hh, FloorRec.granted, FloorRec.givenTo]
    · intro c
      simp [vacate_console, FloorRec.givenTo]
    · intro r; simp
    · simp
  | console k =>
    refine ⟨?_, ?_, ?_, ?_, ?_, ?_⟩
    · intro h; by_cases hh : h = g <;> simp [modFloor_floor, vacate_floor, hh, FloorRec.granted, FloorRec.givenTo, FloorRec.reset, startTimer, Config.sec]
    · intro q
      simp [keySweep_port, FloorRec.granted, FloorRec.givenTo]
    · intro h
      rw [refreshDissolve_group]
      by_cases hh : h = g <;> simp [hh, FloorRec.granted, FloorRec.givenTo]
    · intro c
      simp [vacate_console, involve_console, FloorRec.givenTo]
      by_cases h1 : k = c
      · subst h1; by_cases h2 : (d.floor g).holder = some (.console k) <;> simp [h2]
      · simp [h1]
    · intro r; simp
    · simp

end Sys2Proof.Machine
end

