-- ==== Sys2Proof/Laws/PassOn.lean ====
section
/-!
SUPPORT. The ways a floor passes on, ends, is handed over or is cleared, as `Part.FloorGoes` says it.
-/

namespace Sys2Proof.Machine

/-! The waiting list. -/

theorem leaveList_floor (g : GroupNo) (src : Source) (d : Part) (h : GroupNo) :
    (d.leaveList g src).floor h = if h = g then (d.floor g).without src else d.floor h := by
  simp [Part.leaveList, modFloor_floor]
@[simp] theorem leaveList_port (g : GroupNo) (src : Source) (d : Part) (p : PortNo) :
    (d.leaveList g src).port p = d.port p := by simp [Part.leaveList]
@[simp] theorem leaveList_group (g : GroupNo) (src : Source) (d : Part) (h : GroupNo) :
    (d.leaveList g src).group h = d.group h := by simp [Part.leaveList]
@[simp] theorem leaveList_ctl (g : GroupNo) (src : Source) (d : Part) (c : CtlNo) :
    (d.leaveList g src).ctl c = d.ctl c := by simp [Part.leaveList]
theorem leaveList_console (g : GroupNo) (src : Source) (d : Part) (c : CtlNo) :
    (d.leaveList g src).console c =
      if src = .console c then { d.console c with involvement := .none } else d.console c := by
  simp [Part.leaveList, involve_console]
@[simp] theorem sameRest_leaveList (g : GroupNo) (src : Source) (d e : Part) :
    d.SameRest (e.leaveList g src) ↔ d.SameRest e := by simp [Part.leaveList]

theorem joinList_floor (g : GroupNo) (e : Entry) (d : Part) (h : GroupNo) :
    (d.joinList g e).floor h =
      if h = g then { d.floor g with waiting := (d.floor g).waiting ++ [e] } else d.floor h := by
  simp [Part.joinList, modFloor_floor]
@[simp] theorem joinList_port (g : GroupNo) (e : Entry) (d : Part) (p : PortNo) :
    (d.joinList g e).port p = d.port p := by simp [Part.joinList]
@[simp] theorem joinList_group (g : GroupNo) (e : Entry) (d : Part) (h : GroupNo) :
    (d.joinList g e).group h = d.group h := by simp [Part.joinList]
@[simp] theorem joinList_ctl (g : GroupNo) (e : Entry) (d : Part) (c : CtlNo) :
    (d.joinList g e).ctl c = d.ctl c := by simp [Part.joinList]
theorem joinList_console (g : GroupNo) (e : Entry) (d : Part) (c : CtlNo) :
    (d.joinList g e).console c =
      if e.source = .console c then { d.console c with involvement := .waiter g } else d.console c := by
  simp [Part.joinList, involve_console]
@[simp] theorem sameRest_joinList (g : GroupNo) (e : Entry) (d t : Part) :
    d.SameRest (t.joinList g e) ↔ d.SameRest t := by simp [Part.joinList]

/-! Notices of the arbiter. -/

section news
variable (g : GroupNo) (d : Part)

@[simp] theorem floorNotice_port (cause : FloorCause) (p : PortNo) : (d.floorNotice g cause).port p = d.port p := rfl
@[simp] theorem floorNotice_group (cause : FloorCause) (h : GroupNo) : (d.floorNotice g cause).group h = d.group h := rfl
@[simp] theorem floorNotice_floor (cause : FloorCause) (h : GroupNo) : (d.floorNotice g cause).floor h = d.floor h := rfl
@[simp] theorem floorNotice_console (cause : FloorCause) (c : CtlNo) : (d.floorNotice g cause).console c = d.console c := rfl
theorem floorNotice_ctl (cause : FloorCause) (r : CtlNo) :
    (d.floorNotice g cause).ctl r = (d.ctl r).receives (d.floorNews g (d.floor g) cause r) := by
  unfold Part.floorNotice Part.floorNews
  rw [notify_receives]
  simp [toAll, Part.floorRecipients]

@[simp] theorem lapseNotice_port (cause : LapseCause) (src : Option Source) (p : PortNo) :
    (d.lapseNotice g cause src).port p = d.port p := by rcases src with _ | _ | _ <;> rfl
@[simp] theorem lapseNotice_group (cause : LapseCause) (src : Option Source) (h : GroupNo) :
    (d.lapseNotice g cause src).group h = d.group h := by rcases src with _ | _ | _ <;> rfl
@[simp] theorem lapseNotice_floor (cause : LapseCause) (src : Option Source) (h : GroupNo) :
    (d.lapseNotice g cause src).floor h = d.floor h := by rcases src with _ | _ | _ <;> rfl
@[simp] theorem lapseNotice_console (cause : LapseCause) (src : Option Source) (c : CtlNo) :
    (d.lapseNotice g cause src).console c = d.console c := by rcases src with _ | _ | _ <;> rfl
theorem lapseNotice_ctl (cause : LapseCause) (src : Option Source) (r : CtlNo) :
    (d.lapseNotice g cause src).ctl r = (d.ctl r).receives (if src = some (.console r) then [.lapse g cause] else []) := by
  rcases src with _ | p | c
  · rfl
  · simp [Part.lapseNotice]
  · unfold Part.lapseNotice
    rw [notify_receives]
    simp [toAll, onlyTo, eq_comm]

end news

/-! Compositions of `FloorGoes`. -/

/-- The floor goes first, and a notice follows. -/
theorem FloorGoes.notice {d t : Part} {g : GroupNo} {f : FloorRec} {ns : CtlNo → List Notice}
    (h : d.FloorGoes t g f ns) (cause : FloorCause) :
    d.FloorGoes (t.floorNotice g cause) g f (fun r => ns r ++ d.floorNews g f cause r) := by
  obtain ⟨hf, hp, hg, hc, hq, hr⟩ := h
  refine ⟨hf, hp, hg, hc, ?_, by simpa using hr⟩
  intro r
  rw [floorNotice_ctl, hq, receives_append]
  congr 1
  unfold Part.floorNews
  rw [hc, hg, hf]
  simp only [if_true, GroupRec.timed]
  by_cases h1 : f.holder = some (.console r)
  · simp [h1]
  · by_cases h2 : (d.floor g).holder = some (.console r) <;> simp [h1, h2]

/-- The holder was out already when the floor went. -/
theorem FloorGoes.of_vacated {d t : Part} {g : GroupNo} {f : FloorRec} {ns : CtlNo → List Notice} {k : FloorRec → FloorRec}
    (h : ((d.vacate g).modFloor g k).FloorGoes t g f ns)
    (hk : ∀ f, (k f).holder = f.holder) :
    d.FloorGoes t g f ns := by
  obtain ⟨hf, hp, hg, hc, hq, hr⟩ := h
  refine ⟨?_, ?_, ?_, ?_, ?_, ?_⟩
  · intro x; rw [hf]; by_cases hx : x = g <;> simp [hx, modFloor_floor, vacate_floor]
  · intro p; rw [hp]; simp
  · intro x; rw [hg]; simp
  · intro c
    rw [hc]
    simp only [modFloor_floor, if_true, hk, vacate_floor, modFloor_console, vacate_console]
    by_cases h1 : f.holder = some (.console c)
    · by_cases h2 : (d.floor g).holder = some (.console c) <;> simp [h1, h2]
    · by_cases h2 : (d.floor g).holder = some (.console c) <;> simp [h1, h2]
  · intro r; rw [hq]; simp
  · exact (Part.SameRest.trans (by simp) hr)

/-- The winner of a grant decision (R76, R77). -/
theorem grantWinner_goes (g : GroupNo) (own : Option CtlNo) (e : Entry) (n : Nat) (d : Part) :
    d.FloorGoes (d.grantWinner g own e n) g
      (FloorRec.givenTo e.source e.emergency (d.group g).settings.window (listWithout e.source (d.floor g).waiting)
        (countWith (listWithout e.source (d.floor g).waiting) n))
      (fun r => if e.source = .console r ∧ own ≠ some r then [.grant g] else []) := by
  have key := grantTo_goes g e.source e.emergency ((d.modFloor g fun f => { f with lowTurn := n }).leaveList g e.source)
  obtain ⟨hf, hp, hg, hc, hq, hr⟩ := key
  have hw : ((d.modFloor g fun f => { f with lowTurn := n }).leaveList g e.source).floor g =
      { d.floor g with
        waiting := listWithout e.source (d.floor g).waiting
        lowTurn := countWith (listWithout e.source (d.floor g).waiting) n
        preemptTimer := if hasEmergency (listWithout e.source (d.floor g).waiting) then (d.floor g).preemptTimer else none } := by
    simp [leaveList_floor, FloorRec.without, listWithout, countWith, hasLow]
  simp only [hw, leaveList_group, modFloor_group] at hf hp hg hc
  have main : d.FloorGoes
      (((d.modFloor g fun f => { f with lowTurn := n }).leaveList g e.source).grantTo g e.source e.emergency) g
      (FloorRec.givenTo e.source e.emergency (d.group g).settings.window (listWithout e.source (d.floor g).waiting)
        (countWith (listWithout e.source (d.floor g).waiting) n)) (fun _ => []) := by
    refine ⟨?_, ?_, ?_, ?_, ?_, ?_⟩
    · intro x; rw [hf]; by_cases hx : x = g <;> simp [hx, leaveList_floor, modFloor_floor]
    · intro p; rw [hp]; simp
    · intro x; rw [hg]
    · intro c
      rw [hc]
      have hh : (FloorRec.givenTo e.source e.emergency (d.group g).settings.window (listWithout e.source (d.floor g).waiting)
        (countWith (listWithout e.source (d.floor g).waiting) n)).holder = some e.source := by
        cases e.source <;> rfl
      rw [hh]
      simp only [leaveList_console, modFloor_console, Option.some.injEq]
      by_cases h1 : e.source = .console c <;> simp [h1]
    · intro r; rw [hq]; simp
    · exact Part.SameRest.trans (by simp) hr
  unfold Part.grantWinner
  cases hs : e.source with
  | port p => simp only [hs] at main ⊢; simpa using main
  | console k =>
    simp only [hs] at main ⊢
    by_cases ho : own = some k
    · simp only [ho, if_true]
      obtain ⟨hf, hp, hg, hc, hq, hr⟩ := main
      refine ⟨hf, hp, hg, hc, ?_, hr⟩
      intro r
      rw [hq]
      by_cases hk : k = r <;> simp [hk]
    · simp only [ho, if_false]
      obtain ⟨hf, hp, hg, hc, hq, hr⟩ := main
      refine ⟨hf, hp, hg, hc, ?_, hr⟩
      intro r
      rw [notify_receives, hq]
      by_cases hk : k = r
      · subst hk; simp [toAll, onlyTo, ho]
      · have : ¬ r = k := fun e => hk e.symm
        simp [toAll, onlyTo, hk, this]

/-- The GRANT notice of a grant, but for the console whose own request's response reports it (R90). -/
def grantNewsBut (own : Option CtlNo) (g : GroupNo) (f : FloorRec) : CtlNo → List Notice := fun r =>
  if own = some r then [] else grantNews g f r

theorem grantNewsBut_none (g : GroupNo) (f : FloorRec) : grantNewsBut none g f = grantNews g f := by
  funext r; simp [grantNewsBut]

/-- The floor passes on (R76). -/
theorem passOn_goes (g : GroupNo) (own : Option CtlNo) (d : Part) :
    d.FloorGoes (d.passOn g own) g ((d.floor g).passed (d.group g).settings.window)
      (grantNewsBut own g ((d.floor g).passed (d.group g).settings.window)) := by
  unfold Part.passOn FloorRec.passed
  dsimp only
  cases hdec : grantDecision (d.floor g).waiting (d.floor g).lowTurn with
  | some en =>
    obtain ⟨e, n⟩ := en
    have := grantWinner_goes g own e n d
    obtain ⟨hf, hp, hg, hc, hq, hr⟩ := this
    refine ⟨hf, hp, hg, hc, ?_, hr⟩
    intro r
    rw [hq]
    congr 1
    have hh : ∀ w ws m, (FloorRec.givenTo e.source e.emergency w ws m).holder = some e.source := by
      intro w ws m; cases e.source <;> rfl
    unfold grantNewsBut grantNews
    simp only [hh]
    by_cases h1 : own = some r <;> by_cases h2 : e.source = .console r <;> simp [h1, h2]
  | none =>
    refine ⟨?_, ?_, ?_, ?_, ?_, ?_⟩
    · intro x; simp [freeFloor_floor]
    · intro p; simp [unkeySweep_port, freeFloor_group, FloorRec.reset, GroupRec.timed]
    · intro x; simp [freeFloor_group, FloorRec.reset]
    · intro c; simp [freeFloor_console, FloorRec.reset]
    · intro r; simp [grantNewsBut, grantNews, FloorRec.reset]
    · simp

theorem passed_congr {f f' : FloorRec} (w : Nat) (h1 : f.waiting = f'.waiting) (h2 : f.lowTurn = f'.lowTurn) :
    f.passed w = f'.passed w := by unfold FloorRec.passed; rw [h1, h2]

/-- An end with no hang (R78, R80, R82, R85, R86). -/
theorem endNoHang_goes (g : GroupNo) (cause : FloorCause) (d : Part) :
    d.FloorGoes (d.endNoHang g cause) g ((d.floor g).passed (d.group g).settings.window)
      (fun r => grantNews g ((d.floor g).passed (d.group g).settings.window) r ++
        d.floorNews g ((d.floor g).passed (d.group g).settings.window) cause r) := by
  unfold Part.endNoHang
  apply FloorGoes.notice
  apply FloorGoes.of_vacated (k := fun f => { f.talkOver with hangTimer := none, windowTimer := none }) _ (by intro f; rfl)
  have := passOn_goes g none ((d.vacate g).modFloor g fun f => { f.talkOver with hangTimer := none, windowTimer := none })
  rw [passed_congr (f' := d.floor g) _ (by simp [vacate_floor, FloorRec.talkOver]) (by simp [vacate_floor, FloorRec.talkOver])] at this
  simpa [grantNewsBut_none] using this

/-- Notices before the floor goes. -/
theorem FloorGoes.after {d e t : Part} {g : GroupNo} {f : FloorRec} {ms ns : CtlNo → List Notice}
    (h : e.FloorGoes t g f ns) (hf : ∀ x, e.floor x = d.floor x) (hp : ∀ p, e.port p = d.port p)
    (hg : ∀ x, e.group x = d.group x) (hc : ∀ c, e.console c = d.console c) (hq : ∀ r, e.ctl r = (d.ctl r).receives (ms r))
    (hr : d.SameRest e) : d.FloorGoes t g f (fun r => ms r ++ ns r) := by
  obtain ⟨h1, h2, h3, h4, h5, h6⟩ := h
  refine ⟨?_, ?_, ?_, ?_, ?_, hr.trans h6⟩
  · intro x; rw [h1, hf]
  · intro p; rw [h2, hp, hg]
  · intro x; rw [h3, hg, hg]
  · intro c; rw [h4, hc, hf]
  · intro r; rw [h5, hq, receives_append]

/-- A pending grant lapses (R82, R85). -/
theorem lapseGrant_goes (g : GroupNo) (cause : LapseCause) (d : Part) :
    d.FloorGoes (d.lapseGrant g cause) g ((d.floor g).passed (d.group g).settings.window)
      (fun r => d.lapseNews g cause r ++ (grantNews g ((d.floor g).passed (d.group g).settings.window) r ++
        d.floorNews g ((d.floor g).passed (d.group g).settings.window) .lapsed r)) := by
  unfold Part.lapseGrant
  have := endNoHang_goes g .lapsed (d.lapseNotice g cause (d.floor g).holder)
  have h2 := FloorGoes.after (d := d) (ms := d.lapseNews g cause) this (by simp) (by simp) (by simp) (by simp)
    (by intro r; rw [lapseNotice_ctl]; rfl) (by simp)
  simpa [Part.floorNews] using h2

/-- A handover at once to an emergency claim whose entry stands in the list (R102, R103). -/
theorem handOver_goes (g : GroupNo) (src : Source) (d : Part) :
    let f := FloorRec.givenTo src true (d.group g).settings.window (listWithout src (d.floor g).waiting)
      (countWith (listWithout src (d.floor g).waiting) (d.floor g).lowTurn)
    d.FloorGoes (d.handOver g src) g f (d.floorNews g f .preempted) := by
  intro f
  unfold Part.handOver
  have key := grantTo_goes g src true ((d.vacate g).leaveList g src)
  have hw : ((d.vacate g).leaveList g src).floor g =
      { d.floor g with
        holder := none
        waiting := listWithout src (d.floor g).waiting
        lowTurn := countWith (listWithout src (d.floor g).waiting) (d.floor g).lowTurn
        preemptTimer := if hasEmergency (listWithout src (d.floor g).waiting) then (d.floor g).preemptTimer else none } := by
    simp [leaveList_floor, vacate_floor, FloorRec.without, listWithout, countWith, hasLow]
  obtain ⟨hf, hp, hg, hc, hq, hr⟩ := key
  simp only [hw, leaveList_group, vacate_group] at hf hp hg hc
  have hh : f.holder = some src := by show (FloorRec.givenTo ..).holder = _; cases src <;> rfl
  have main : d.FloorGoes (((d.vacate g).leaveList g src).grantTo g src true) g f (fun _ => []) := by
    refine ⟨?_, ?_, ?_, ?_, ?_, ?_⟩
    · intro x; rw [hf]; by_cases hx : x = g
      · simp [hx, f]
      · simp [hx, leaveList_floor, vacate_floor]
    · intro p; rw [hp]; simp [f]
    · intro x; rw [hg]
    · intro c
      rw [hc]
      simp only [hh, leaveList_console, vacate_console, Option.some.injEq]
      by_cases h1 : src = .console c
      · by_cases h2 : (d.floor g).holder = some (.console c) <;> simp_all [f]
      · by_cases h2 : (d.floor g).holder = some (.console c) <;> simp_all [f]
    · intro r; rw [hq]; simp
    · exact Part.SameRest.trans (by simp) hr
  simpa using FloorGoes.notice main .preempted

/-- A claim granted from FREE (R73, R81). -/
theorem grantFromFree_goes (g : GroupNo) (src : Source) (mark : Bool) (d : Part) :
    let f := FloorRec.givenTo src mark (d.group g).settings.window (d.floor g).waiting (d.floor g).lowTurn
    d.FloorGoes (d.grantFromFree g src mark) g f (d.floorNews g f .granted) := by
  intro f
  unfold Part.grantFromFree
  simpa using FloorGoes.notice (grantTo_goes g src mark d) .granted

end Sys2Proof.Machine
end

