-- ==== Sys2Proof/Laws/EndFloor.lean ====
section
/-!
SUPPORT. The normal end of talk, the cut of a preemption, and the end of a whole floor by a clearing or an emptying.
-/

namespace Sys2Proof.Machine

/-- A normal end of talk with no hang: for an emergency waiter, or a hang time of 0 (R74). -/
theorem normalEnd_goes (g : GroupNo) (d : Part)
    (h : hasEmergency (d.floor g).waiting = true ∨ (d.group g).settings.hang = 0) :
    d.FloorGoes (d.normalEnd g) g ((d.floor g).passed (d.group g).settings.window)
      (fun r => grantNews g ((d.floor g).passed (d.group g).settings.window) r ++
        d.floorNews g ((d.floor g).passed (d.group g).settings.window) .ended r) := by
  have hn : d.normalEnd g = (((d.modFloor g FloorRec.talkOver).vacate g).passOn g none).floorNotice g .ended := by
    unfold Part.normalEnd
    dsimp only
    split
    · rfl
    · next hc => exact absurd (by simpa [FloorRec.talkOver] using h) hc
  rw [hn]
  apply FloorGoes.notice
  have := passOn_goes g none ((d.modFloor g FloorRec.talkOver).vacate g)
  rw [passed_congr (f' := d.floor g) _ (by simp [vacate_floor, FloorRec.talkOver]) (by simp [vacate_floor, FloorRec.talkOver])] at this
  rw [grantNewsBut_none] at this
  obtain ⟨h1, h2, h3, h4, h5, h6⟩ := this
  refine ⟨?_, ?_, ?_, ?_, ?_, Part.SameRest.trans (by simp) h6⟩
  · intro x; rw [h1]; by_cases hx : x = g <;> simp [hx, modFloor_floor, vacate_floor]
  · intro p; rw [h2]; simp
  · intro x; rw [h3]; simp
  · intro c
    rw [h4]
    simp only [vacate_console, vacate_floor, modFloor_console, modFloor_floor, if_true, FloorRec.talkOver]
    by_cases a : ((d.floor g).passed (d.group g).settings.window).holder = some (.console c)
    · by_cases b : (d.floor g).holder = some (.console c) <;> simp_all
    · by_cases b : (d.floor g).holder = some (.console c) <;> simp_all
  · intro r; rw [h5]; simp

/-- A normal end of talk into HANG (R74): the talker parked, the hang timer started, no sweep. -/
theorem normalEnd_hang (g : GroupNo) (d : Part)
    (h : ¬ (hasEmergency (d.floor g).waiting = true ∨ (d.group g).settings.hang = 0)) :
    d.normalEnd g = (d.modFloor g fun f =>
      { f with state := .hang, mark := false, preemptTimer := none,
               hangTimer := startTimer (hangFrames (d.group g).settings.hang) }).floorNotice g .ended := by
  unfold Part.normalEnd
  dsimp only
  split
  · next hc => exact absurd (by simpa [FloorRec.talkOver] using hc) h
  · congr 1
    apply Part.ext_views <;> intros <;> simp [modFloor_floor, FloorRec.talkOver]
    split <;> simp_all

/-- What the cut does to the floor holder (R105 step 1). -/
theorem cutHolder_port (g : GroupNo) (d : Part) (p : PortNo) :
    (d.cutHolder g).port p =
      if (d.floor g).holder = some (.port p) then (d.port p).preempt else d.port p := by
  unfold Part.cutHolder
  rcases h : (d.floor g).holder with _ | q | c
  · simp
  · simp only [Part.portNotice, notify_port, modPort_port, Option.some.injEq, Source.port.injEq]
    by_cases hq : p = q
    · subst hq; simp
    · have : ¬ q = p := fun e => hq e.symm
      simp [hq, this]
  · simp

/-! The end of a whole floor. -/

section drop
variable (g : GroupNo) (cause : LapseCause)

theorem each_dropWaiter (ws : List Entry) (d : Part) :
    (∀ x, (Part.each (Part.dropWaiter g cause) ws d).floor x = d.floor x) ∧
    (∀ p, (Part.each (Part.dropWaiter g cause) ws d).port p = d.port p) ∧
    (∀ x, (Part.each (Part.dropWaiter g cause) ws d).group x = d.group x) ∧
    (∀ c, (Part.each (Part.dropWaiter g cause) ws d).console c =
      if ∃ e ∈ ws, e.source = .console c then { d.console c with involvement := .none } else d.console c) ∧
    (∀ r, (Part.each (Part.dropWaiter g cause) ws d).ctl r =
      (d.ctl r).receives ((ws.filter fun e => e.source = .console r).map fun _ => .lapse g cause)) ∧
    d.SameRest (Part.each (Part.dropWaiter g cause) ws d) := by
  induction ws generalizing d with
  | nil => simp
  | cons e ws ih =>
    simp only [each_cons]
    obtain ⟨h1, h2, h3, h4, h5, h6⟩ := ih (d.dropWaiter g cause e)
    refine ⟨?_, ?_, ?_, ?_, ?_, ?_⟩
    · intro x; rw [h1]; simp [Part.dropWaiter]
    · intro x; rw [h2]; simp [Part.dropWaiter]
    · intro x; rw [h3]; simp [Part.dropWaiter]
    · intro c; rw [h4]
      simp only [Part.dropWaiter, lapseNotice_console, involve_console, List.mem_cons, exists_eq_or_imp]
      by_cases a : e.source = .console c <;> by_cases b : ∃ e ∈ ws, e.source = .console c <;> simp [a, b]
    · intro r; rw [h5]
      simp only [Part.dropWaiter, lapseNotice_ctl, involve_ctl, List.filter_cons, Option.some.injEq]
      by_cases a : e.source = .console r <;> simp [a]
    · exact Part.SameRest.trans (by simp [Part.dropWaiter]) h6

theorem dropWaiters_spec (d : Part) :
    (∀ x, (d.dropWaiters g cause).floor x =
      if x = g then { d.floor g with waiting := [], lowTurn := 0 } else d.floor x) ∧
    (∀ p, (d.dropWaiters g cause).port p = d.port p) ∧
    (∀ x, (d.dropWaiters g cause).group x = d.group x) ∧
    (∀ c, (d.dropWaiters g cause).console c =
      if ∃ e ∈ (d.floor g).waiting, e.source = .console c then { d.console c with involvement := .none } else d.console c) ∧
    (∀ r, (d.dropWaiters g cause).ctl r = (d.ctl r).receives (d.waiterNews g cause r)) ∧
    d.SameRest (d.dropWaiters g cause) := by
  obtain ⟨h1, h2, h3, h4, h5, h6⟩ := each_dropWaiter g cause (d.floor g).waiting d
  unfold Part.dropWaiters
  refine ⟨?_, ?_, ?_, ?_, ?_, ?_⟩
  · intro x; rw [modFloor_floor]; by_cases hx : x = g <;> simp [hx, h1]
  · intro p; simp [h2]
  · intro x; simp [h3]
  · intro c; simp [h4]
  · intro r; simp [h5, Part.waiterNews]
  · simpa using h6

end drop

/-- The emptying of a group ends its whole floor (R80); the ports are not touched by it. -/
theorem emptyFloor_ends (g : GroupNo) (d : Part) :
    d.FloorEnds (d.emptyFloor g) g (d.endNews g .layout .layout) ∧ (∀ p, (d.emptyFloor g).port p = d.port p) := by
  unfold Part.emptyFloor
  obtain ⟨h1, h2, h3, h4, h5, h6⟩ := dropWaiters_spec g .layout (d.lapseNotice g .layout (d.floor g).holder)
  simp only [lapseNotice_floor, lapseNotice_port, lapseNotice_group, lapseNotice_console, lapseNotice_ctl] at h1 h2 h3 h4 h5
  have hw : (d.lapseNotice g .layout (d.floor g).holder).waiterNews g .layout = d.waiterNews g .layout := by
    funext r; simp [Part.waiterNews]
  rw [hw] at h5
  have hrest : d.SameRest (((d.lapseNotice g .layout (d.floor g).holder).dropWaiters g .layout).freeFloor g) := by
    rw [sameRest_freeFloor]; exact Part.SameRest.trans (by simp) h6
  have base : ∀ r, (((d.lapseNotice g .layout (d.floor g).holder).dropWaiters g .layout).freeFloor g).ctl r =
      (d.ctl r).receives (d.lapseNews g .layout r ++ d.waiterNews g .layout r) := by
    intro r; rw [freeFloor_ctl, h5, receives_append]; rfl
  have hf : ∀ x, (((d.lapseNotice g .layout (d.floor g).holder).dropWaiters g .layout).freeFloor g).floor x =
      if x = g then FloorRec.reset else d.floor x := by
    intro x; rw [freeFloor_floor]; by_cases hx : x = g <;> simp [hx, h1]
  have hg : ∀ x, (((d.lapseNotice g .layout (d.floor g).holder).dropWaiters g .layout).freeFloor g).group x =
      if x = g then (d.group g).timed true else d.group x := by
    intro x; rw [freeFloor_group]; simp [h3]
  have hc : ∀ c, (((d.lapseNotice g .layout (d.floor g).holder).dropWaiters g .layout).freeFloor g).console c =
      if (d.floor g).holder = some (.console c) ∨ (∃ e ∈ (d.floor g).waiting, e.source = .console c)
      then { d.console c with involvement := .none } else d.console c := by
    intro c; rw [freeFloor_console, h1, h4]
    simp only [if_true]
    by_cases a : (d.floor g).holder = some (.console c) <;>
      by_cases b : ∃ e ∈ (d.floor g).waiting, e.source = .console c <;> simp [a, b]
  by_cases hfree : (d.floor g).state = .free
  · simp only [Part.floorNoticeUnless, hfree, decide_true, if_true]
    refine ⟨⟨hf, hg, hc, ?_, hrest⟩, by intro p; simp [h2]⟩
    intro r; rw [base]; simp [Part.endNews, hfree]
  · simp only [Part.floorNoticeUnless, hfree, decide_false]
    refine ⟨⟨by simpa using hf, by simpa using hg, by simpa using hc, ?_, by simpa using hrest⟩, by intro p; simp [h2]⟩
    intro r
    simp only [Bool.false_eq_true, if_false]
    rw [floorNotice_ctl, base, ← receives_append]
    congr 1
    simp only [Part.endNews, hfree, if_false, List.append_assoc]
    congr 2
    unfold Part.floorNews
    rw [hc, hg, hf]
    simp only [if_true, GroupRec.timed]
    split <;> rfl

/-- The strip of the floor holder (R88 step 2). -/
theorem stripHolder_port (g : GroupNo) (d : Part) (p : PortNo) :
    (d.stripHolder g).port p = if (d.floor g).holder = some (.port p) then (d.port p).strip else d.port p := by
  unfold Part.stripHolder
  rcases h : (d.floor g).holder with _ | q | c
  · simp
  · simp only [modPort_port, Option.some.injEq, Source.port.injEq]
    by_cases hq : p = q
    · subst hq; simp
    · have : ¬ q = p := fun e => hq e.symm
      simp [hq, this]
  · simp

section strip
variable (g : GroupNo) (d : Part)
@[simp] theorem stripHolder_floor (h : GroupNo) : (d.stripHolder g).floor h = d.floor h := by
  unfold Part.stripHolder; rcases (d.floor g).holder with _ | q | c <;> simp
@[simp] theorem stripHolder_group (h : GroupNo) : (d.stripHolder g).group h = d.group h := by
  unfold Part.stripHolder; rcases (d.floor g).holder with _ | q | c <;> simp
@[simp] theorem stripHolder_console (c : CtlNo) : (d.stripHolder g).console c = d.console c := by
  unfold Part.stripHolder; rcases (d.floor g).holder with _ | q | c <;> simp
@[simp] theorem stripHolder_ctl (c : CtlNo) : (d.stripHolder g).ctl c = d.ctl c := by
  unfold Part.stripHolder; rcases (d.floor g).holder with _ | q | c <;> simp
@[simp] theorem sameRest_stripHolder (e : Part) : e.SameRest (d.stripHolder g) ↔ e.SameRest d := by
  unfold Part.stripHolder; rcases (d.floor g).holder with _ | q | c <;> simp
end strip

/-- A clearing ends the whole floor (R88): the holder stripped, every member unkeyed. -/
theorem clearFloor_ends (g : GroupNo) (lapse : LapseCause) (cause : FloorCause) (d : Part) :
    d.FloorEnds (d.clearFloor g lapse cause) g (d.endNews g lapse cause) ∧
    (∀ p, (d.clearFloor g lapse cause).port p =
      let r := if (d.floor g).holder = some (.port p) then (d.port p).strip else d.port p
      if p ∈ (d.group g).members then r.unkey else r) := by
  have hdef : d.clearFloor g lapse cause =
      (((((d.lapseNotice g lapse (d.floor g).holder).dropWaiters g lapse).stripHolder g).freeFloor g).unkeySweep g).floorNoticeUnless
        (decide ((d.floor g).state = .free)) g cause := rfl
  rw [hdef]
  obtain ⟨h1, h2, h3, h4, h5, h6⟩ := dropWaiters_spec g lapse (d.lapseNotice g lapse (d.floor g).holder)
  simp only [lapseNotice_floor, lapseNotice_port, lapseNotice_group, lapseNotice_console, lapseNotice_ctl] at h1 h2 h3 h4 h5
  have hw : (d.lapseNotice g lapse (d.floor g).holder).waiterNews g lapse = d.waiterNews g lapse := by
    funext r; simp [Part.waiterNews]
  rw [hw] at h5
  generalize he : (d.lapseNotice g lapse (d.floor g).holder).dropWaiters g lapse = e at h1 h2 h3 h4 h5 h6 ⊢
  clear hdef he
  have hr6 : d.SameRest e := Part.SameRest.trans (by simp) h6
  have hrest : d.SameRest (((e.stripHolder g).freeFloor g).unkeySweep g) := by simpa using hr6
  have base : ∀ r, (((e.stripHolder g).freeFloor g).unkeySweep g).ctl r =
      (d.ctl r).receives (d.lapseNews g lapse r ++ d.waiterNews g lapse r) := by
    intro r; rw [unkeySweep_ctl, freeFloor_ctl, stripHolder_ctl, h5, receives_append]; rfl
  have hf : ∀ x, (((e.stripHolder g).freeFloor g).unkeySweep g).floor x = if x = g then FloorRec.reset else d.floor x := by
    intro x; rw [unkeySweep_floor, freeFloor_floor]; by_cases hx : x = g <;> simp [hx, h1]
  have hg : ∀ x, (((e.stripHolder g).freeFloor g).unkeySweep g).group x = if x = g then (d.group g).timed true else d.group x := by
    intro x; rw [unkeySweep_group, freeFloor_group]; simp [h3]
  have hc : ∀ c, (((e.stripHolder g).freeFloor g).unkeySweep g).console c =
      if (d.floor g).holder = some (.console c) ∨ (∃ e ∈ (d.floor g).waiting, e.source = .console c)
      then { d.console c with involvement := .none } else d.console c := by
    intro c; rw [unkeySweep_console, freeFloor_console, stripHolder_console, stripHolder_floor, h1, h4]
    simp only [if_true]
    by_cases a : (d.floor g).holder = some (.console c) <;>
      by_cases b : ∃ e ∈ (d.floor g).waiting, e.source = .console c <;> simp [a, b]
  have hp : ∀ p, (((e.stripHolder g).freeFloor g).unkeySweep g).port p =
      let r := if (d.floor g).holder = some (.port p) then (d.port p).strip else d.port p
      if p ∈ (d.group g).members then r.unkey else r := by
    intro p
    rw [unkeySweep_port, freeFloor_group, freeFloor_port, stripHolder_port]
    simp [h1, h2, h3, GroupRec.timed]
  by_cases hfree : (d.floor g).state = .free
  · simp only [Part.floorNoticeUnless, hfree, decide_true, if_true]
    refine ⟨⟨hf, hg, hc, ?_, hrest⟩, hp⟩
    intro r; rw [base]; simp [Part.endNews, hfree]
  · simp only [Part.floorNoticeUnless, hfree, decide_false]
    refine ⟨⟨by simpa using hf, by simpa using hg, by simpa using hc, ?_, by simpa using hrest⟩, by simpa using hp⟩
    intro r
    simp only [Bool.false_eq_true, if_false]
    rw [floorNotice_ctl, base, ← receives_append]
    congr 1
    simp only [Part.endNews, hfree, if_false, List.append_assoc]
    congr 2
    unfold Part.floorNews
    rw [hc, hg, hf]
    simp only [if_true, GroupRec.timed]
    split <;> rfl

end Sys2Proof.Machine
end

