-- ==== Sys2Proof/Laws/Quiet.lean ====
section
/-!
SUPPORT. Every operation of the floor arbiter is quiet: it keeps all that `Part.Quiet` names.
-/

namespace Sys2Proof.Machine

/-! Controller ports. -/

theorem CtlPort.Notified.refl (q : CtlPort) : q.Notified q :=
  ⟨⟨[], by simp, .inl rfl⟩, id, fun _ => rfl, rfl⟩

theorem CtlPort.Notified.trans {a b c : CtlPort} (h1 : a.Notified b) (h2 : b.Notified c) : a.Notified c := by
  obtain ⟨⟨ns1, o1, b1⟩, l1, d1, e1⟩ := h1
  obtain ⟨⟨ns2, o2, b2⟩, l2, d2, e2⟩ := h2
  have hatt : b.attached = a.attached := by rw [e1]
  have hres : c.reservations = b.reservations := by rw [e2]
  refine ⟨⟨ns1 ++ ns2, by rw [o2, o1]; simp, ?_⟩, fun h => l2 (l1 h), ?_, ?_⟩
  · rcases b2 with h | h
    · subst h
      rcases b1 with h1 | h1
      · left; simp [h1]
      · right; refine ⟨h1.1, ?_⟩
        rw [hres, o2]; simpa using h1.2
    · right; exact ⟨by rw [← hatt]; exact h.1, h.2⟩
  · intro ha
    rw [d2 (by rw [hatt]; exact ha), d1 ha]
  · rw [e2, e1]

theorem CtlPort.Notified.admitNotice (n : Notice) (q : CtlPort) : q.Notified (q.admitNotice n) := by
  unfold CtlPort.admitNotice
  split
  · exact .refl q
  · next ha =>
    simp only [Bool.not_eq_true', Bool.not_eq_false] at ha
    split
    · exact .refl q
    · split
      · exact ⟨⟨[], by simp, .inl rfl⟩, fun _ => rfl, fun h => by simp [ha] at h, rfl⟩
      · next hf =>
        refine ⟨⟨[n], by simp, .inr ⟨ha, ?_⟩⟩, id, fun h => by simp [ha] at h, rfl⟩
        unfold CtlPort.free Config.outboundCapacity at hf
        simp only [List.length_append, List.length_singleton]
        omega

theorem CtlPort.Notified.receives (ns : List Notice) (q : CtlPort) : q.Notified (q.receives ns) := by
  induction ns generalizing q with
  | nil => exact .refl q
  | cons n ns ih => exact (CtlPort.Notified.admitNotice n q).trans (ih _)

/-! Ports. -/

theorem PortRec.FloorActed.refl (r : PortRec) : r.FloorActed r := ⟨rfl, fun _ => rfl⟩

theorem PortRec.FloorActed.trans {a b c : PortRec} (h1 : a.FloorActed b) (h2 : b.FloorActed c) : a.FloorActed c := by
  obtain ⟨e1, k1⟩ := h1
  obtain ⟨e2, k2⟩ := h2
  refine ⟨by rw [e2, e1], fun h => ?_⟩
  have := k1 h
  subst this
  exact k2 h

theorem startGuard_eq (r : PortRec) : r.startGuard = { r with guard := r.startGuard.guard } := by
  unfold PortRec.startGuard; split <;> rfl

/-- A record that agrees with `r` in the fields that no floor event writes. -/
theorem FloorActed.mk_of {r r' : PortRec} (h1 : r'.settings = r.settings) (h2 : r'.linkUp = r.linkUp)
    (h3 : r'.linkCount = r.linkCount) (h4 : r'.restartPhase = r.restartPhase) (h5 : r'.restartTimer = r.restartTimer)
    (h6 : r'.runLength = r.runLength) (h7 : r'.rawLevel = r.rawLevel) (h8 : r'.emergency = r.emergency)
    (h9 : r'.emergencyCount = r.emergencyCount) :
    r' = { r with
      state := r'.state, carrier := r'.carrier, runCount := r'.runCount, hysteresis := r'.hysteresis, guard := r'.guard,
      transmitTimer := r'.transmitTimer, carrierTimer := r'.carrierTimer, cooldownTimer := r'.cooldownTimer } := by
  cases r; cases r'; simp_all

theorem goTo_fields (st : PortState) (r : PortRec) :
    r.goTo st = { r with
      state := (r.goTo st).state, carrier := (r.goTo st).carrier, runCount := (r.goTo st).runCount,
      hysteresis := (r.goTo st).hysteresis, guard := (r.goTo st).guard, transmitTimer := (r.goTo st).transmitTimer,
      carrierTimer := (r.goTo st).carrierTimer, cooldownTimer := (r.goTo st).cooldownTimer } := by
  by_cases h : r.state = .keyed ∧ st ≠ .source ∧ st ≠ .keyed
  · apply FloorActed.mk_of <;> simp [PortRec.goTo, PortRec.change, h] <;> rw [startGuard_eq] <;> rfl
  · apply FloorActed.mk_of <;> simp [PortRec.goTo, PortRec.change, h] <;> rfl

theorem PortRec.FloorActed.goTo (st : PortState) (r : PortRec)
    (h : ¬ (r.state = .offline ∨ r.state = .cooldown ∨ r.state = .latched)) : r.FloorActed (r.goTo st) :=
  ⟨goTo_fields st r, fun h' => absurd h' h⟩

theorem PortRec.FloorActed.key (r : PortRec) : r.FloorActed r.key := by
  unfold PortRec.key
  split
  · next h => exact .goTo _ _ (by simp [h])
  · exact .refl r

theorem PortRec.FloorActed.unkey (r : PortRec) : r.FloorActed r.unkey := by
  unfold PortRec.unkey
  split
  · next h => exact .goTo _ _ (by simp [h])
  · exact .refl r

theorem PortRec.FloorActed.grant (r : PortRec) : r.FloorActed r.grant := by
  unfold PortRec.grant
  split
  · next h => exact .goTo _ _ (by rcases h with h | h <;> simp [h])
  · exact .refl r

theorem PortRec.FloorActed.removed (r : PortRec) : r.FloorActed r.removed := by
  unfold PortRec.removed
  split
  · next h => exact .goTo _ _ (by rcases h with h | h <;> simp [h])
  · exact .refl r

theorem PortRec.FloorActed.endTalk (r : PortRec) : r.FloorActed r.endTalk := by
  unfold PortRec.endTalk
  split
  · next h => exact .goTo _ _ (by simp [h])
  · exact .refl r

theorem PortRec.FloorActed.preempt (r : PortRec) : r.FloorActed r.preempt := by
  unfold PortRec.preempt
  split
  · next h =>
    have := PortRec.FloorActed.goTo .keyed r (by simp [h])
    refine ⟨?_, fun h' => by simp [h] at h'⟩
    unfold PortRec.filterRestart
    rw [this.1]
  · exact .refl r

theorem PortRec.FloorActed.strip (r : PortRec) : r.FloorActed r.strip := by
  unfold PortRec.strip
  split
  · next h =>
    refine ⟨?_, fun h' => by simp [h] at h'⟩
    apply FloorActed.mk_of <;> simp [PortRec.change] <;> rw [startGuard_eq] <;> rfl
  · exact .refl r

/-! The part. -/

theorem Part.Quiet.refl (d : Part) : d.Quiet d :=
  ⟨fun _ => .refl _, fun _ => rfl, fun _ => rfl, fun _ => .refl _, .refl d⟩

theorem Part.Quiet.trans {a b c : Part} (h1 : a.Quiet b) (h2 : b.Quiet c) : a.Quiet c := by
  obtain ⟨p1, g1, c1, q1, r1⟩ := h1
  obtain ⟨p2, g2, c2, q2, r2⟩ := h2
  refine ⟨fun p => (p1 p).trans (p2 p), fun g => ?_, fun k => ?_, fun r => (q1 r).trans (q2 r), r1.trans r2⟩
  · rw [g2, g1]
  · rw [c2, c1]

section quiet
variable (d : Part)

theorem Part.Quiet.modPort (p : PortNo) (f : PortRec → PortRec) (h : (d.port p).FloorActed (f (d.port p))) :
    d.Quiet (d.modPort p f) := by
  refine ⟨fun q => ?_, fun _ => rfl, fun _ => rfl, fun _ => .refl _, by simp⟩
  rw [modPort_port]; split
  · next e => subst e; exact h
  · exact .refl _

theorem Part.Quiet.modFloor (g : GroupNo) (f : FloorRec → FloorRec) : d.Quiet (d.modFloor g f) :=
  ⟨fun _ => .refl _, fun _ => rfl, fun _ => rfl, fun _ => .refl _, by simp⟩

theorem Part.Quiet.notify (rc : CtlNo → Bool) (n : Notice) : d.Quiet (d.notify rc n) := by
  refine ⟨fun _ => .refl _, fun _ => rfl, fun _ => rfl, fun r => ?_, by simp⟩
  rw [notify_receives]; exact .receives _ _

theorem Part.Quiet.involve (src : Source) (i : Involvement) : d.Quiet (d.involve src i) := by
  refine ⟨fun p => by simp [PortRec.FloorActed.refl], fun g => by simp, fun c => ?_, fun r => by simp [CtlPort.Notified.refl], by simp⟩
  rw [involve_console]; split <;> rfl

theorem Part.Quiet.refresh (g : GroupNo) : d.Quiet (d.refreshDissolve g) := by
  refine ⟨fun _ => .refl _, fun x => ?_, fun _ => rfl, fun _ => .refl _, by simp⟩
  rw [refreshDissolve_group]; split
  · next e => subst e; rfl
  · rfl

theorem Part.Quiet.vacate (g : GroupNo) : d.Quiet (d.vacate g) := by
  unfold Part.vacate
  cases (d.floor g).holder with
  | none => exact .modFloor _ _ _
  | some src => exact (Part.Quiet.involve d src .none).trans (.modFloor _ _ _)

theorem Part.Quiet.each {α : Type} (f : α → Part → Part) (h : ∀ a d, Part.Quiet d (f a d)) (l : List α) :
    d.Quiet (Part.each f l d) :=
  each_rel Part.Quiet f .refl (fun _ _ _ => .trans) h l d

theorem Part.Quiet.keyMember (g : GroupNo) (p : PortNo) : d.Quiet (d.keyMember g p) := by
  unfold Part.keyMember; split
  · exact .refl d
  · exact .modPort _ _ _ (.key _)

theorem Part.Quiet.keySweep (g : GroupNo) : d.Quiet (d.keySweep g) := .each d _ (fun a d => .keyMember d g a) _
theorem Part.Quiet.unkeySweep (g : GroupNo) : d.Quiet (d.unkeySweep g) :=
  .each d _ (fun a d => .modPort d a _ (.unkey _)) _
theorem Part.Quiet.freeFloor (g : GroupNo) : d.Quiet (d.freeFloor g) :=
  ((Part.Quiet.vacate d g).trans (.modFloor _ _ _)).trans (.refresh _ _)
theorem Part.Quiet.leaveList (g : GroupNo) (src : Source) : d.Quiet (d.leaveList g src) :=
  (Part.Quiet.modFloor d g _).trans (.involve _ _ _)
theorem Part.Quiet.leaveIfWaiting (g : GroupNo) (p : PortNo) : d.Quiet (d.leaveIfWaiting g p) := by
  unfold Part.leaveIfWaiting; split
  · exact .leaveList _ _ _
  · exact .refl d
theorem Part.Quiet.joinList (g : GroupNo) (e : Entry) : d.Quiet (d.joinList g e) :=
  (Part.Quiet.modFloor d g _).trans (.involve _ _ _)

theorem Part.Quiet.grantTo (g : GroupNo) (src : Source) (mark : Bool) : d.Quiet (d.grantTo g src mark) := by
  unfold Part.grantTo
  cases src with
  | port p =>
    exact (((Part.Quiet.vacate d g).trans (.modFloor _ g _)).trans (.modPort _ p _ (.grant _))).trans
      ((Part.Quiet.keySweep _ g).trans (.refresh _ g))
  | console c =>
    exact (((Part.Quiet.vacate d g).trans (.modFloor _ g _)).trans (.involve _ (.console c) (.holder g))).trans
      ((Part.Quiet.keySweep _ g).trans (.refresh _ g))

theorem Part.Quiet.floorNotice (g : GroupNo) (cause : FloorCause) : d.Quiet (d.floorNotice g cause) := .notify _ _ _
theorem Part.Quiet.portNotice (p : PortNo) (cause : PortCause) : d.Quiet (d.portNotice p cause) := .notify _ _ _
theorem Part.Quiet.lapseNotice (g : GroupNo) (cause : LapseCause) (src : Option Source) :
    d.Quiet (d.lapseNotice g cause src) := by
  rcases src with _ | _ | _
  · exact .refl d
  · exact .refl d
  · exact .notify _ _ _
theorem Part.Quiet.carrierNotice (p : PortNo) (on : Bool) : d.Quiet (d.carrierNotice p on) := by
  unfold Part.carrierNotice
  dsimp only
  split
  · exact .notify _ _ _
  · exact .refl d

theorem Part.Quiet.grantWinner (g : GroupNo) (own : Option CtlNo) (e : Entry) (n : Nat) : d.Quiet (d.grantWinner g own e n) := by
  unfold Part.grantWinner
  have h : d.Quiet (((d.modFloor g fun f => { f with lowTurn := n }).leaveList g e.source).grantTo g e.source e.emergency) :=
    ((Part.Quiet.modFloor d g _).trans (.leaveList _ g e.source)).trans (.grantTo _ g e.source e.emergency)
  dsimp only
  split
  · exact h
  · split
    · exact h
    · exact h.trans (.notify _ _ _)

theorem Part.Quiet.passOn (g : GroupNo) (own : Option CtlNo) : d.Quiet (d.passOn g own) := by
  unfold Part.passOn
  dsimp only
  split
  · exact .grantWinner _ _ _ _ _
  · exact (Part.Quiet.freeFloor d g).trans (.unkeySweep _ _)

theorem Part.Quiet.normalEnd (g : GroupNo) : d.Quiet (d.normalEnd g) := by
  unfold Part.normalEnd
  refine Part.Quiet.trans ((Part.Quiet.modFloor d g FloorRec.talkOver).trans ?_) (.floorNotice _ _ _)
  split
  · exact (Part.Quiet.vacate _ _).trans (.passOn _ _ _)
  · exact .modFloor _ _ _

theorem Part.Quiet.endNoHang (g : GroupNo) (cause : FloorCause) : d.Quiet (d.endNoHang g cause) :=
  (((Part.Quiet.vacate d g).trans (.modFloor _ _ _)).trans (.passOn _ _ _)).trans (.floorNotice _ _ _)

theorem Part.Quiet.lapseGrant (g : GroupNo) (cause : LapseCause) : d.Quiet (d.lapseGrant g cause) :=
  (Part.Quiet.lapseNotice d g cause _).trans (.endNoHang _ _ _)

theorem Part.Quiet.cutHolder (g : GroupNo) : d.Quiet (d.cutHolder g) := by
  unfold Part.cutHolder
  split
  · exact (Part.Quiet.modPort d _ _ (.preempt _)).trans (.portNotice _ _ _)
  · exact .lapseNotice _ _ _ _

theorem Part.Quiet.cut (g : GroupNo) (own : Option CtlNo) : d.Quiet (d.cut g own) :=
  ((Part.Quiet.cutHolder d g).trans (((Part.Quiet.vacate _ g).trans (.modFloor _ _ _)).trans (.passOn _ _ _))).trans
    (.floorNotice _ _ _)

theorem Part.Quiet.handOver (g : GroupNo) (src : Source) : d.Quiet (d.handOver g src) :=
  (((Part.Quiet.vacate d g).trans (.leaveList _ _ _)).trans (.grantTo _ _ _ _)).trans (.floorNotice _ _ _)

theorem Part.Quiet.emergencyArrived (g : GroupNo) (src : Source) (own : Option CtlNo) :
    d.Quiet (d.emergencyArrived g src own) := by
  unfold Part.emergencyArrived
  dsimp only
  split
  · exact .refl d
  · split
    · exact .refl d
    · exact (Part.Quiet.lapseNotice d _ _ _).trans (.handOver _ _ _)
  · split
    · exact .refl d
    · split
      · exact .cut _ _ _
      · exact .modFloor _ _ _
  · exact .handOver _ _ _

theorem Part.Quiet.busyClaim (g : GroupNo) (e : Entry) (own : Option CtlNo) : d.Quiet (d.busyClaim g e own) := by
  unfold Part.busyClaim
  dsimp only
  split
  · exact (Part.Quiet.joinList d g e).trans (.emergencyArrived _ _ _ _)
  · exact .joinList _ _ _

theorem Part.Quiet.grantFromFree (g : GroupNo) (src : Source) (mark : Bool) : d.Quiet (d.grantFromFree g src mark) :=
  (Part.Quiet.grantTo d g src mark).trans (.floorNotice _ _ _)

theorem Part.Quiet.floorRequest (g : GroupNo) (p : PortNo) : d.Quiet (d.floorRequest g p) := by
  unfold Part.floorRequest
  dsimp only
  split
  · exact .grantFromFree _ _ _ _
  · split
    · exact ((Part.Quiet.modFloor d g _).trans (.modPort _ _ _ (.grant _))).trans (.floorNotice _ _ _)
    · exact .busyClaim _ _ _ _

theorem Part.Quiet.sourceLost (p : PortNo) : d.Quiet (d.sourceLost p) := by
  unfold Part.sourceLost
  split
  · exact .refl d
  · split
    · exact .endNoHang _ _ _
    · exact .refl d

theorem Part.Quiet.memberUnavailable (p : PortNo) : d.Quiet (d.memberUnavailable p) := by
  unfold Part.memberUnavailable
  split
  · exact .refl d
  · split
    · exact .endNoHang _ _ _
    · exact .leaveIfWaiting _ _ _

theorem Part.Quiet.carrierDrop (p : PortNo) : d.Quiet (d.carrierDrop p) := by
  unfold Part.carrierDrop
  split
  · refine (Part.Quiet.modPort d p _ (.endTalk _)).trans ?_
    dsimp only
    split
    · exact .refl _
    · split
      · exact .normalEnd _ _
      · exact .refl _
  · split
    · exact .refl d
    · exact .leaveIfWaiting _ _ _

theorem Part.Quiet.markTalk (g : GroupNo) : d.Quiet (d.markTalk g) := by
  unfold Part.markTalk
  split
  · exact .refl d
  · exact (Part.Quiet.modFloor d g _).trans (.floorNotice _ _ _)

theorem Part.Quiet.emergencyRaised (p : PortNo) : d.Quiet (d.emergencyRaised p) := by
  unfold Part.emergencyRaised
  split
  · exact .refl d
  · split
    · exact (Part.Quiet.modFloor d _ _).trans (.emergencyArrived _ _ _ _)
    · split
      · exact .markTalk _ _
      · exact .refl d

theorem Part.Quiet.dropWaiters (g : GroupNo) (cause : LapseCause) : d.Quiet (d.dropWaiters g cause) :=
  (Part.Quiet.each d _ (fun _ d => (Part.Quiet.involve d _ _).trans (.lapseNotice _ _ _ _)) _).trans (.modFloor _ _ _)

theorem Part.Quiet.floorNoticeUnless (was : Bool) (g : GroupNo) (cause : FloorCause) :
    d.Quiet (d.floorNoticeUnless was g cause) := by
  unfold Part.floorNoticeUnless; split
  · exact .refl d
  · exact .floorNotice _ _ _

theorem Part.Quiet.emptyFloor (g : GroupNo) : d.Quiet (d.emptyFloor g) :=
  (((Part.Quiet.lapseNotice d g _ _).trans (.dropWaiters _ _ _)).trans (.freeFloor _ _)).trans (.floorNoticeUnless _ _ _ _)

theorem Part.Quiet.stripHolder (g : GroupNo) : d.Quiet (d.stripHolder g) := by
  unfold Part.stripHolder; split
  · exact .modPort _ _ _ (.strip _)
  · exact .refl d

theorem Part.Quiet.clearFloor (g : GroupNo) (lapse : LapseCause) (cause : FloorCause) : d.Quiet (d.clearFloor g lapse cause) :=
  (((((Part.Quiet.lapseNotice d g _ _).trans (.dropWaiters _ _ _)).trans (.stripHolder _ _)).trans (.freeFloor _ _)).trans
    (.unkeySweep _ _)).trans (.floorNoticeUnless _ _ _ _)

theorem Part.Quiet.endConsole (c : CtlNo) : d.Quiet (d.endConsole c) := by
  unfold Part.endConsole; split
  · exact .refl d
  · exact .leaveList _ _ _
  · exact .endNoHang _ _ _

end quiet

/-- A floor that goes is quiet. -/
theorem FloorGoes.quiet {d t : Part} {g : GroupNo} {f : FloorRec} {ns : CtlNo → List Notice}
    (h : d.FloorGoes t g f ns) : d.Quiet t := by
  obtain ⟨_, hp, hg, hc, hq, hr⟩ := h
  refine ⟨fun p => ?_, fun x => ?_, fun c => ?_, fun r => ?_, hr⟩
  · rw [hp]
    repeat' split
    · exact .grant _
    · exact .unkey _
    · exact .key _
    · exact .refl _
  · rw [hg]; split
    · next e => subst e; rfl
    · rfl
  · rw [hc]; repeat' split
    all_goals rfl
  · rw [hq]; exact .receives _ _

end Sys2Proof.Machine
end

