-- ==== Sys2Proof/Laws/Claims.lean ====
section
/-!
SUPPORT. One lemma per operation of claims, cuts, removals, joins and layout changes: each does what the relation of
Safety.lean of the same name says.
-/

namespace Sys2Proof.Machine

/-! Notices as runs told to every port. -/

theorem told_ctl (d : Part) (ns : CtlNo → List Notice) (r : CtlNo) : (d.told ns).ctl r = (d.ctl r).receives (ns r) := by
  unfold Part.told; exact tget_tmap ..
@[simp] theorem told_port (d : Part) (ns : CtlNo → List Notice) (p : PortNo) : (d.told ns).port p = d.port p := rfl
@[simp] theorem told_group (d : Part) (ns : CtlNo → List Notice) (g : GroupNo) : (d.told ns).group g = d.group g := rfl
@[simp] theorem told_floor (d : Part) (ns : CtlNo → List Notice) (g : GroupNo) : (d.told ns).floor g = d.floor g := rfl
@[simp] theorem told_taken (d : Part) (ns : CtlNo → List Notice) : (d.told ns).taken = d.taken := rfl
@[simp] theorem told_transmit (d : Part) (ns : CtlNo → List Notice) : (d.told ns).transmit = d.transmit := rfl
@[simp] theorem told_peaks (d : Part) (ns : CtlNo → List Notice) : (d.told ns).peaks = d.peaks := rfl
@[simp] theorem told_blockFrames (d : Part) (ns : CtlNo → List Notice) : (d.told ns).blockFrames = d.blockFrames := rfl
@[simp] theorem told_slots (d : Part) (ns : CtlNo → List Notice) : (d.told ns).slots = d.slots := rfl
@[simp] theorem told_portsRecord (d : Part) (ns : CtlNo → List Notice) : (d.told ns).portsRecord = d.portsRecord := rfl
@[simp] theorem told_storeOp (d : Part) (ns : CtlNo → List Notice) : (d.told ns).storeOp = d.storeOp := rfl
@[simp] theorem told_console (d : Part) (ns : CtlNo → List Notice) (c : CtlNo) : (d.told ns).console c = d.console c := rfl

theorem notify_told (d : Part) (rc : CtlNo → Bool) (n : Notice) : d.notify rc n = d.told (toAll rc n) := by
  apply Part.ext_views <;> intros <;> simp [notify_receives, told_ctl]

theorem portRecipients_eq (d : Part) (p : PortNo) (r : CtlNo) (st : PortState) (cause : PortCause) :
    toAll (d.portRecipients p) (.port p st cause) r = d.portNews p st cause r := by
  unfold toAll Part.portRecipients Part.portNews
  cases h : d.groupOf p <;> simp

theorem portNotice_told (d : Part) (p : PortNo) (cause : PortCause) :
    d.portNotice p cause = d.told (d.portNews p (d.port p).state cause) := by
  unfold Part.portNotice
  rw [notify_told]
  congr 1
  funext r
  exact portRecipients_eq ..

theorem floorNotice_told (d : Part) (g : GroupNo) (cause : FloorCause) :
    d.floorNotice g cause = d.told (d.floorNews g (d.floor g) cause) := by
  unfold Part.floorNotice
  rw [notify_told]
  congr 1
  funext r
  simp [toAll, Part.floorRecipients, Part.floorNews]

theorem bumpRevision_revised (g : GroupNo) (cause : LayoutCause) (d : Part) : d.bumpRevision g cause = d.revised g cause := by
  unfold Part.bumpRevision Part.revised
  rw [notify_told]
  have hrc : (((d.modGroup g fun r => { r with revision := r.revision + 1 }).refreshDissolve g).layoutRecipients) =
      fun r => (d.ctl r).attached := rfl
  have hrev : ((((d.modGroup g fun r => { r with revision := r.revision + 1 }).refreshDissolve g).group g).revision) =
      (d.group g).revision + 1 := by rw [refreshDissolve_group]; simp [GroupRec.timed]
  have hd : ((d.modGroup g fun r => { r with revision := r.revision + 1 }).refreshDissolve g) =
      d.modGroup g fun r => { r with revision := r.revision + 1 }.timed (decide ((d.floor g).state = FloorState.free)) := by
    apply Part.ext_views <;> intros <;> simp [refreshDissolve_group, modGroup_group]
    next x => by_cases hx : x = g <;> simp [hx] <;> rfl
  rw [hrc, hrev, hd]

/-! Claims. -/

theorem joinList_joined (g : GroupNo) (e : Entry) (d : Part) : d.joinList g e = d.joined g e := by
  unfold Part.joinList Part.joined Part.involve
  cases e.source <;> rfl

theorem groupOf_congr {d e : Part} (h : ∀ g, e.group g = d.group g) (p : PortNo) : e.groupOf p = d.groupOf p := by
  unfold Part.groupOf; simp [h]

theorem preempt_settings (r : PortRec) : r.preempt.settings = r.settings := by
  have h := (PortRec.FloorActed.preempt r).1
  rw [h]

theorem portNews_modPort (d : Part) (p : PortNo) (f : PortRec → PortRec) (h : (f (d.port p)).settings = (d.port p).settings)
    (st : PortState) (cause : PortCause) (r : CtlNo) :
    (d.modPort p f).portNews p st cause r = d.portNews p st cause r := by
  unfold Part.portNews
  simp [h, groupOf_congr (d := d) (e := d.modPort p f) (by simp)]

theorem cut_cuts (g : GroupNo) (own : Option CtlNo) (d : Part) : d.Cuts (d.cut g own) g own := by
  unfold Part.Cuts
  have key : ∀ e : Part, e.FloorGoes ((((e.vacate g).modFloor g fun f => { f with preemptTimer := none }).passOn g own).floorNotice g .preempted)
      g ((e.floor g).passed (e.group g).settings.window) (fun r =>
        grantNewsBut own g ((e.floor g).passed (e.group g).settings.window) r ++
          e.floorNews g ((e.floor g).passed (e.group g).settings.window) .preempted r) := by
    intro e
    apply FloorGoes.notice
    apply FloorGoes.of_vacated (k := fun f => { f with preemptTimer := none }) _ (by intro f; rfl)
    have := passOn_goes g own ((e.vacate g).modFloor g fun f => { f with preemptTimer := none })
    rw [passed_congr (f' := e.floor g) _ (by simp [vacate_floor]) (by simp [vacate_floor])] at this
    simpa using this
  have hcut : d.cut g own = ((((d.cutHolder g).vacate g).modFloor g fun f => { f with preemptTimer := none }).passOn g own).floorNotice g .preempted := rfl
  rw [hcut]
  have k := key (d.cutHolder g)
  rcases hh : (d.floor g).holder with _ | p | c
  · have e : d.cutHolder g = d := by unfold Part.cutHolder; rw [hh]; rfl
    rw [e] at k ⊢
    dsimp only
    simpa [Part.cutNews, hh, Part.lapseNews, grantNewsBut] using k
  · have e : d.cutHolder g = (d.modPort p PortRec.preempt).portNotice p .preempted := by unfold Part.cutHolder; rw [hh]
    rw [e] at k ⊢
    rw [portNotice_told] at k ⊢
    simp only [told_floor, modPort_floor, told_group, modPort_group] at k
    refine FloorGoes.after (d := d.modPort p PortRec.preempt) (ms := d.cutNews g) k (by simp) (by simp) (by simp) (by simp) ?_ (by simp [Part.SameRest, Part.told])
    intro r
    rw [told_ctl]
    unfold Part.cutNews
    rw [hh]
    dsimp only
    rw [portNews_modPort _ _ _ (preempt_settings _)]
    simp
  · have e : d.cutHolder g = d.lapseNotice g .preempted (some (.console c)) := by unfold Part.cutHolder; rw [hh]
    rw [e] at k ⊢
    simp only [lapseNotice_floor, lapseNotice_group] at k
    refine FloorGoes.after (d := d) (ms := d.cutNews g) (by simpa [Part.floorNews, grantNewsBut] using k) (by simp) (by simp) (by simp) (by simp) ?_ (by simp)
    intro r
    rw [lapseNotice_ctl]
    unfold Part.cutNews Part.lapseNews
    rw [hh]

theorem preemptFrames_eq (code : Nat) : preemptFrames code = delayFrames code := by
  unfold preemptFrames delayFrames Config.ms
  match code with
  | 0 | 1 | 2 | 3 => rfl
  | n + 4 => simp

theorem lapseNotice_floorNews (d : Part) (g h : GroupNo) (cause : LapseCause) (src : Option Source) (f : FloorRec)
    (cause' : FloorCause) : (d.lapseNotice g cause src).floorNews h f cause' = d.floorNews h f cause' := by
  funext r; simp [Part.floorNews]

theorem emergencyArrived_meets (g : GroupNo) (src : Source) (own : Option CtlNo) (d : Part) :
    d.EmergencyMeets (d.emergencyArrived g src own) g src own := by
  unfold Part.EmergencyMeets Part.emergencyArrived
  cases hs : (d.floor g).state with
  | free => simp only [hs]
  | pending =>
    simp only [hs]
    split
    · rfl
    · have k := handOver_goes g src (d.lapseNotice g .preempted (d.floor g).holder)
      dsimp only at k
      simp only [lapseNotice_floor, lapseNotice_group, lapseNotice_floorNews] at k
      exact FloorGoes.after (d := d) (ms := d.lapseNews g .preempted) k (by simp) (by simp) (by simp)
        (by simp) (by intro r; rw [lapseNotice_ctl]; rfl) (by simp)
  | talk =>
    simp only [hs]
    have e : ((d.floor g).preemptTimer ≠ none) ↔ (d.floor g).preemptTimer.isSome = true := by
      cases (d.floor g).preemptTimer <;> simp
    simp only [e]
    split
    · rfl
    · split
      · exact cut_cuts g own d
      · simp [startTimer, preemptFrames_eq]
  | hang => simp only [hs]; exact handOver_goes g src d

theorem busyClaim_claims (g : GroupNo) (e : Entry) (own : Option CtlNo) (d : Part) :
    d.ClaimsBusy (d.busyClaim g e own) g e own := by
  unfold Part.ClaimsBusy Part.busyClaim
  rw [joinList_joined]
  dsimp only
  split
  · exact emergencyArrived_meets ..
  · rfl

theorem resume_told (g : GroupNo) (mark : Bool) (d : Part) (f : Part → Part)
    (_h : ∀ x, (f x).floor = x.floor) :
    (f (d.resume g mark)).floorNotice g .resumed =
      (f (d.modFloor g fun _ => { d.floor g with state := .talk, hangTimer := none, mark := mark })).floorNotice g .resumed := by
  have : d.resume g mark = d.modFloor g fun _ => { d.floor g with state := .talk, hangTimer := none, mark := mark } := by
    apply Part.ext_views <;> intros <;> simp [Part.resume, modFloor_floor]
  rw [this]

theorem floorRequest_requests (g : GroupNo) (p : PortNo) (d : Part) : d.Requests (d.floorRequest g p) g p := by
  unfold Part.Requests Part.floorRequest
  dsimp only
  split
  · exact grantFromFree_goes g (.port p) _ d
  · split
    · rw [resume_told g (d.port p).emergency d (fun x => x.modPort p PortRec.grant) (fun _ => rfl), floorNotice_told]
      congr 1
      funext r
      simp [Part.floorNews]
    · exact busyClaim_claims ..

/-! Ends of a place and removals. -/

theorem waits_iff (f : FloorRec) (src : Source) : f.waits src = true ↔ ∃ e ∈ f.waiting, e.source = src := by
  simp [FloorRec.waits]

theorem leaveList_leftBy (g : GroupNo) (p : PortNo) (d : Part) :
    d.leaveList g (.port p) = d.modFloor g (FloorRec.leftBy (.port p)) := rfl

theorem losesPlace (g : GroupNo) (p : PortNo) (cause : FloorCause) (d : Part) :
    d.LosesPlace (if (d.floor g).holder = some (.port p) then d.endNoHang g cause else d.leaveIfWaiting g p) g p cause := by
  unfold Part.LosesPlace
  dsimp only
  split
  · exact endNoHang_goes g cause d
  · unfold Part.leaveIfWaiting
    by_cases h : (d.floor g).waits (.port p) = true
    · rw [if_pos h, if_pos ((waits_iff ..).1 h)]; exact leaveList_leftBy ..
    · rw [if_neg h, if_neg (fun hh => h ((waits_iff ..).2 hh))]

theorem emptied_congr {d e : Part} {g : GroupNo} (hf : ∀ x, e.floor x = d.floor x) (hh : (e.group g).holdHolder = (d.group g).holdHolder)
    (hm : ∀ c, (e.console c).monitor = (d.console c).monitor) (lapse : LapseCause) (cause : FloorCause) :
    e.endNews g lapse cause = d.endNews g lapse cause := by
  funext r
  simp [Part.endNews, Part.lapseNews, Part.waiterNews, Part.floorNews, hf, hh, hm]

theorem formed_iff (r : GroupRec) : r.formed = true ↔ r.members ≠ [] := by
  unfold GroupRec.formed; cases r.members <;> simp

theorem leaveGroup_removes (g : GroupNo) (p : PortNo) (d : Part) : d.Removes (d.leaveGroup g p) g p := by
  have hset : d.setMembers g ((d.group g).members.filter fun m => m ≠ p) =
      d.modGroup g fun r => { r with members := r.members.filter fun m => m ≠ p } := by
    apply Part.ext_views <;> intros <;> simp [Part.setMembers, modGroup_group]
  unfold Part.Removes Part.leaveGroup Part.reportRemoval
  rw [hset]
  dsimp only
  split
  · next h =>
    rw [if_neg (by rw [formed_iff]; simpa using h)]
    obtain ⟨h1, h2⟩ := emptyFloor_ends g
      ((d.modGroup g fun r => { r with members := r.members.filter fun m => m ≠ p }).modPort p PortRec.removed)
    rw [emptied_congr (d := d) (by simp) (by simp) (by simp)] at h1
    exact ⟨h1, h2⟩
  · next h =>
    rw [if_pos (by rw [formed_iff]; exact h)]
    exact losesPlace g p .removed _

theorem removed_removed (r : PortRec) : r.removed.removed = r.removed := by
  unfold PortRec.removed
  by_cases h : r.state = .keyed ∨ r.state = .source <;> simp [h]

theorem removeAll_empties (g : GroupNo) (d : Part) : d.Empties (d.removeAll g) g := by
  have hset : d.setMembers g [] = d.modGroup g fun r => { r with members := [] } := rfl
  unfold Part.Empties Part.removeAll
  rw [hset]
  dsimp only
  have hfield := each_modPort_fields PortRec.removed (d.group g).members (d.modGroup g fun r => { r with members := [] })
  generalize hx : Part.each (fun p d => d.modPort p PortRec.removed) (d.group g).members
    (d.modGroup g fun r => { r with members := [] }) = x at hfield
  have hport : ∀ p, x.port p = if p ∈ (d.group g).members then (d.port p).removed else d.port p := by
    intro p; rw [← hx, each_modPort_port _ removed_removed]; rfl
  obtain ⟨h1, h2⟩ := emptyFloor_ends g x
  have hg : ∀ h, x.group h = (d.modGroup g fun r => { r with members := [] }).group h := by intro h; rw [hfield]; rfl
  have hf : ∀ h, x.floor h = d.floor h := by intro h; rw [hfield]; rfl
  have hc : ∀ h, x.console h = d.console h := by intro h; rw [hfield]; rfl
  have hq : ∀ h, x.ctl h = d.ctl h := by intro h; rw [hfield]; rfl
  have hr : d.SameRest x := by rw [hfield]; simp [Part.SameRest]
  refine ⟨?_, fun p => by rw [h2, hport]⟩
  rw [emptied_congr (d := d) hf (by rw [hg]; simp) (by simp [hc])] at h1
  obtain ⟨a, b, c, e, f⟩ := h1
  refine ⟨?_, ?_, ?_, ?_, hr.trans f⟩
  · intro h; rw [a, hf]; rfl
  · intro h; rw [b, hg, hg]
  · intro k; rw [c, hf, hc]; rfl
  · intro k; rw [e, hq]; rfl

theorem reportJoin_reported (g : GroupNo) (p : PortNo) (d : Part) : d.JoinReported (d.reportJoin g p) g p := by
  unfold Part.JoinReported Part.reportJoin
  dsimp only
  by_cases hfree : (d.floor g).state = .free
  · simp only [hfree, if_true]
    unfold Part.claimOnJoin
    simp only [hfree]
    by_cases h : (d.port p).carrier = true ∧ (d.port p).state = .idle
    · simp only [h, and_self, if_true]
      simpa using floorRequest_requests g p _
    · rw [if_neg (by simpa using h), if_neg (by simpa using h)]
  · simp only [hfree, if_false]
    unfold Part.claimOnJoin
    simp only [modPort_floor, hfree]
    generalize hd : d.modPort p PortRec.key = d1
    by_cases h : (d1.port p).carrier = true ∧ (d1.port p).state = .keyed
    · rw [if_pos h, if_pos (by simpa [hfree] using h)]
      exact floorRequest_requests g p _
    · rw [if_neg h, if_neg (by simpa [hfree] using h)]

theorem joinGroup_joins (g : GroupNo) (p : PortNo) (d : Part) : d.Joins (d.joinGroup g p) g p := by
  have hset : d.setMembers g ((d.group g).members ++ [p]) =
      d.modGroup g fun r => { r with members := r.members ++ [p] } := by
    apply Part.ext_views <;> intros <;> simp [Part.setMembers, modGroup_group]
  unfold Part.Joins Part.joinGroup
  rw [hset]
  exact reportJoin_reported g p _

end Sys2Proof.Machine
end

