-- ==== Sys2Proof/Laws/Requests.lean ====
section
/-!
SUPPORT. The taking of requests: what a take at a port does, by the acceptance checks, and what an answer leaves.
-/

namespace Sys2Proof.Machine

/-- Two changes of one controller port, one after the other. -/
theorem modCtl_modCtl (d : Part) (c : CtlNo) (f g : CtlPort → CtlPort) :
    (d.modCtl c f).modCtl c g = d.modCtl c fun q => g (f q) := by
  apply Part.ext_views <;> intros <;> simp [modCtl_ctl]
  split <;> rfl

theorem takeable_of_offers {d : Part} {c : CtlNo} {f : List Byte} (h : d.offers c f) : d.takeable c = some f := by
  obtain ⟨h1, h2⟩ := h
  unfold Part.takeable
  cases hb : (d.ctl c).buffer with
  | nil => simp [hb] at h1
  | cons a l =>
    simp only [hb, List.head?_cons, Option.some.injEq] at h1
    subst h1
    have : (d.ctl c).free ≠ 0 := by unfold CtlPort.free Config.outboundCapacity; omega
    simp [this]

@[simp] theorem takeFrame_ports (c : CtlNo) (d : Part) : (d.takeFrame c).ports = d.ports := rfl
@[simp] theorem takeFrame_port (c : CtlNo) (d : Part) (p : PortNo) : (d.takeFrame c).port p = d.port p := rfl
@[simp] theorem takeFrame_group (c : CtlNo) (d : Part) (g : GroupNo) : (d.takeFrame c).group g = d.group g := rfl
@[simp] theorem takeFrame_floor (c : CtlNo) (d : Part) (g : GroupNo) : (d.takeFrame c).floor g = d.floor g := rfl
@[simp] theorem takeFrame_console (c : CtlNo) (d : Part) (k : CtlNo) : (d.takeFrame c).console k = d.console k := rfl
@[simp] theorem takeFrame_storeOp (c : CtlNo) (d : Part) : (d.takeFrame c).storeOp = d.storeOp := rfl
@[simp] theorem takeFrame_slots (c : CtlNo) (d : Part) : (d.takeFrame c).slots = d.slots := rfl
@[simp] theorem takeFrame_portsRecord (c : CtlNo) (d : Part) : (d.takeFrame c).portsRecord = d.portsRecord := rfl
@[simp] theorem takeFrame_loading (c : CtlNo) (d : Part) : (d.takeFrame c).loading = d.loading := rfl
@[simp] theorem takeFrame_groupOf (c : CtlNo) (d : Part) (p : PortNo) : (d.takeFrame c).groupOf p = d.groupOf p := rfl
theorem takeFrame_ctl (c : CtlNo) (d : Part) (r : CtlNo) :
    (d.takeFrame c).ctl r =
      if r = c then { d.ctl c with buffer := (d.ctl c).buffer.tail, reservations := (d.ctl c).reservations + 1 }
      else d.ctl r := by unfold Part.takeFrame; rw [modCtl_ctl]

theorem takeFrame_attached (c : CtlNo) (d : Part) (r : CtlNo) : ((d.takeFrame c).ctl r).attached = (d.ctl r).attached := by
  rw [takeFrame_ctl]; split
  · next h => subst h; rfl
  · rfl

/-- A request that is accepted reaches its owner block, and the reply is its answer. -/
theorem serve_of_accepts {d : Part} {c : CtlNo} {k : ReqKind} {f : List Byte} (h : Handler) (ha : d.accepts c k f) :
    Part.serve k h c d = Part.answer c f (h c (frameTag f) (frameParams f) (d.takeFrame c)) := by
  obtain ⟨ho, hc, hk, hl, hatt, hload⟩ := ha
  unfold Part.serve
  rw [takeable_of_offers ho]
  simp only [hk, if_true]
  have hr : (d.takeFrame c).refusal c f = none := by
    unfold Part.refusal
    rcases hatt with h | h
    · simp [hc, hk, hl, takeFrame_attached, h, hload]
    · subst h; simp [hc, hk, hl, hload]
  rw [hr]

/-- A request that is taken and refused at the acceptance checks. -/
theorem serve_of_refusal {d : Part} {c : CtlNo} {k : ReqKind} {f : List Byte} {st : Status} (h : Handler) (ho : d.offers c f)
    (hk : ReqKind.ofByte (frameKind f) = some k) (hr : (d.takeFrame c).refusal c f = some st) :
    Part.serve k h c d = (d.takeFrame c).respond c (frameKind f) (frameTag f) st [] := by
  unfold Part.serve
  rw [takeable_of_offers ho]
  simp only [hk, if_true, hr]

/-- A take followed at once by its response. -/
theorem respond_takeFrame (d : Part) (c : CtlNo) (f : List Byte) (st : Status) (data : List Byte) :
    (d.takeFrame c).respond c (frameKind f) (frameTag f) st data = d.answered c f st data := by
  unfold Part.takeFrame Part.respond Part.answered responseTo
  rw [modCtl_modCtl]
  rfl

/-- The command of a kind is the take of a request of that kind. -/
theorem exec_of_run (i : Instr) (s : State) (f : Part → Part) (h : exec i s = s.run f) :
    exec i s = .next { s with part := f s.part } := h

theorem answer_some (c : CtlNo) (f : List Byte) (d : Part) (st : Status) (data : List Byte) :
    Part.answer c f { part := d, answer := some (st, data) } = d.respond c (frameKind f) (frameTag f) st data := rfl

@[simp] theorem answer_reply (c : CtlNo) (f : List Byte) (st : Status) (d : Part) :
    Part.answer c f (reply st d) = d.respond c (frameKind f) (frameTag f) st [] := rfl

@[simp] theorem answer_replyOk (c : CtlNo) (f : List Byte) (data : List Byte) (d : Part) :
    Part.answer c f (replyOk data d) = d.respond c (frameKind f) (frameTag f) .ok data := rfl

/-- A change of a group commutes with the take of a frame. -/
theorem modGroup_takeFrame (d : Part) (c : CtlNo) (g : GroupNo) (f : GroupRec → GroupRec) :
    (d.takeFrame c).modGroup g f = (d.modGroup g f).takeFrame c := rfl
theorem modPort_takeFrame (d : Part) (c : CtlNo) (p : PortNo) (f : PortRec → PortRec) :
    (d.takeFrame c).modPort p f = (d.modPort p f).takeFrame c := rfl
theorem modConsole_takeFrame (d : Part) (c k : CtlNo) (f : ConsoleRec → ConsoleRec) :
    (d.takeFrame c).modConsole k f = (d.modConsole k f).takeFrame c := rfl

theorem touchHold_renewed (d : Part) (c : CtlNo) (g : GroupNo) : d.touchHold c g = d.renewed c g := by
  unfold Part.touchHold Part.renewed
  congr 1
  funext r
  split <;> simp [*, startTimer, Config.holdTime, Config.sec]

theorem renewed_takeFrame (d : Part) (c k : CtlNo) (g : GroupNo) :
    (d.takeFrame c).renewed k g = (d.renewed k g).takeFrame c := rfl

/-- A number in range, as the byte that carries it. -/
theorem numOf_some {n : Nat} {b : Byte} {i : Fin n} (h : b.toNat = i.val) : numOf n b = some i := by
  unfold numOf; rw [dif_pos (by omega)]; simp [h]
theorem numOf_none {n : Nat} {b : Byte} (h : n ≤ b.toNat) : numOf n b = none := by
  unfold numOf; rw [dif_neg (by omega)]
theorem numOf_eq {n : Nat} {b : Byte} {i : Fin n} : numOf n b = some i ↔ b.toNat = i.val := by
  constructor
  · intro h
    unfold numOf at h
    split at h
    · simp only [Option.some.injEq] at h; rw [← h]
    · simp at h
  · exact numOf_some

end Sys2Proof.Machine
end

