-- ==== Sys2Proof/Laws/Answers.lean ====
section
/-!
SUPPORT. The bytes of answers in the statements' words, the renewal of a hold by a request that names its group, and the checks
that the patch table's requests share.
-/

namespace Sys2Proof.Machine

theorem takeFrame_deferredAt (c : CtlNo) (d : Part) : d.takeFrame c = d.deferredAt c := rfl
theorem respond_responded (c : CtlNo) (f : List Byte) (st : Status) (data : List Byte) (d : Part) :
  d.respond c (frameKind f) (frameTag f) st data = d.responded c f st data := rfl

theorem byteOf_mod (n : Nat) : BitVec.ofNat 8 (n % 256) = BitVec.ofNat 8 n := by
  apply BitVec.eq_of_toNat_eq; simp
theorem wordBytes_two (w : Word) : wordBytes w = asBytes (twoBytes w.toNat) := by
  have h := w.isLt
  simp only [wordBytes, asBytes, twoBytes, List.map_cons, List.map_nil, List.cons.injEq, and_true]
  constructor
  · apply BitVec.eq_of_toNat_eq; simp [BitVec.extractLsb'_toNat, Nat.shiftRight_eq_div_pow]
  · apply BitVec.eq_of_toNat_eq; simp [BitVec.extractLsb'_toNat]

theorem src_code (s : Source) : s.code = BitVec.ofNat 8 s.number := by cases s <;> rfl
theorem opt_ctl (o : Option CtlNo) : optByte ctlByte o = BitVec.ofNat 8 (orNone (o.map Fin.val)) := by cases o <;> rfl
theorem opt_src (o : Option Source) : optByte Source.code o = BitVec.ofNat 8 (orNone (o.map Source.number)) := by
  cases o <;> simp [optByte, orNone, src_code, noneByte]
theorem entry_byte (e : Entry) : e.byte = BitVec.ofNat 8 (e.source.number + (if e.srcClass = .low then 32 else 0) + (if e.emergency = true then 64 else 0)) := by
  obtain ⟨s, k, em⟩ := e
  cases s with
  | port p => cases k <;> cases em <;> revert p <;> decide
  | console c => cases k <;> cases em <;> revert c <;> decide

theorem snapshot_eq (d : Part) (g : GroupNo) : d.snapshotBytes g = asBytes (d.snapshot g) := by
  unfold Part.snapshotBytes Part.snapshot
  have h16 : ∀ n, wordBytes (BitVec.ofNat 16 n) = asBytes (twoBytes n) := by
    intro n; rw [wordBytes_two]; unfold twoBytes asBytes; simp only [List.map, BitVec.toNat_ofNat]
    congr 1
    · apply BitVec.eq_of_toNat_eq; simp; omega
    · congr 1; apply BitVec.eq_of_toNat_eq; simp; try omega
  have hf : boolByte (d.group g).formed = BitVec.ofNat 8 (if (d.group g).members = [] then 0 else 1) := by
    unfold GroupRec.formed; cases (d.group g).members <;> rfl
  have hd : boolByte (d.group g).dissolveTimer.isSome = BitVec.ofNat 8 (if (d.group g).dissolveTimer = none then 0 else 1) := by
    cases (d.group g).dissolveTimer <;> rfl
  have hm : boolByte (d.floor g).mark = BitVec.ofNat 8 (if (d.floor g).mark = true then 1 else 0) := by cases (d.floor g).mark <;> rfl
  have hs : secondsLeft (d.group g).dissolveTimer = (match (d.group g).dissolveTimer with | none => 0 | some n => (n + 7999) / 8000) := by
    cases (d.group g).dissolveTimer <;> rfl
  have hst : (d.floor g).state.code = BitVec.ofNat 8 (match (d.floor g).state with
      | .free => 0
      | .pending => 1
      | .talk => 2
      | .hang => 3) := by cases (d.floor g).state <;> rfl
  dsimp only
  rw [h16, wordBytes_two, hf, hd, hm, hs, hst, opt_ctl, opt_src]
  have e1 : portByte = fun x => BitVec.ofNat 8 x.val := rfl
  have e2 : Entry.byte = fun e => BitVec.ofNat 8 (e.source.number + (if e.srcClass = .low then 32 else 0) + (if e.emergency = true then 64 else 0)) := funext entry_byte
  simp [asBytes, GroupSettings.bytes, groupByte, byteOf, e1, Function.comp_def, e2] <;> rfl

theorem touchNamed_some {d : Part} {c : CtlNo} {b : Byte} {g : GroupNo} (h : b.toNat = g.val) : d.touchNamed c b = d.renewed c g := by
  unfold Part.touchNamed; rw [numOf_some h]; exact touchHold_renewed ..
theorem touchNamed_none {d : Part} {c : CtlNo} {b : Byte} (h : 12 ≤ b.toNat) : d.touchNamed c b = d := by
  unfold Part.touchNamed; rw [numOf_none h]

theorem ex {i : Instr} {s : State} {f : Part → Part} {t : Part} (h : exec i s = s.run f) (ht : f s.part = t) :
  exec i s = .next { s with part := t } := by rw [h, State.run, ht]

theorem held_iff (d : Part) (g : GroupNo) (c : CtlNo) : (d.group g).heldByOther c = true ↔ d.heldAgainst g c := by
  unfold GroupRec.heldByOther Part.heldAgainst
  cases (d.group g).holdHolder <;> simp

@[simp] theorem renewed_port (d : Part) (c g) (p) : (d.renewed c g).port p = d.port p := rfl
@[simp] theorem renewed_floor (d : Part) (c g) (p) : (d.renewed c g).floor p = d.floor p := rfl
@[simp] theorem renewed_ctl (d : Part) (c g) (p) : (d.renewed c g).ctl p = d.ctl p := rfl
@[simp] theorem renewed_console (d : Part) (c g) (p) : (d.renewed c g).console p = d.console p := rfl
@[simp] theorem renewed_members (d : Part) (c g h) : ((d.renewed c g).group h).members = (d.group h).members := by
  unfold Part.renewed; rw [modGroup_group]; split
  · next e => rw [e]
  · rfl
@[simp] theorem renewed_revision (d : Part) (c g h) : ((d.renewed c g).group h).revision = (d.group h).revision := by
  unfold Part.renewed; rw [modGroup_group]; split
  · next e => rw [e]
  · rfl
@[simp] theorem renewed_settings (d : Part) (c g h) : ((d.renewed c g).group h).settings = (d.group h).settings := by
  unfold Part.renewed; rw [modGroup_group]; split
  · next e => rw [e]
  · rfl
@[simp] theorem renewed_holder (d : Part) (c g h) : ((d.renewed c g).group h).holdHolder = (d.group h).holdHolder := by
  unfold Part.renewed; rw [modGroup_group]; split
  · next e => rw [e]
  · rfl
@[simp] theorem renewed_groupOf (d : Part) (c g p) : (d.renewed c g).groupOf p = d.groupOf p := by
  unfold Part.groupOf; simp
@[simp] theorem held_renewed (d : Part) (c k g h) : (d.renewed c g).heldAgainst h k ↔ d.heldAgainst h k := by simp [Part.heldAgainst]
@[simp] theorem held_take (d : Part) (c k h) : (d.takeFrame c).heldAgainst h k ↔ d.heldAgainst h k := by simp [Part.heldAgainst]

theorem mem_of_groupOf {d : Part} {p o} (h : d.groupOf p = some o) : p ∈ (d.group o).members := by
  unfold Part.groupOf at h
  simpa using List.find?_some h

theorem param16_eq (f i) : param16 f i = wordOf (arg (frameParams f) i) (arg (frameParams f) (i+1)) := rfl
theorem param_eq (f i) : param f i = arg (frameParams f) i := rfl

theorem replyStale_eq (g : GroupNo) (d : Part) (c : CtlNo) (f : List Byte) : Part.answer c f (replyStale g d) =
   d.respond c (frameKind f) (frameTag f) .stale (asBytes (twoBytes (d.group g).revision.toNat)) := by
  unfold replyStale; rw [answer_some, wordBytes_two]

theorem heldBy2 (d : Part) (c : CtlNo) (g : GroupNo) (p : PortNo) :
  ((d.group g).heldByOther c || d.heldByOther? c (d.otherGroup g p)) = true ↔
   (d.heldAgainst g c ∨ ∃ o, d.groupOf p = some o ∧ d.heldAgainst o c) := by
  rw [Bool.or_eq_true, held_iff]
  unfold Part.otherGroup
  cases h : d.groupOf p with
  | none => simp [Part.heldByOther?]
  | some o =>
    by_cases e : o = g
    · subst e; simp [Part.heldByOther?]
    · simp [e, Part.heldByOther?, held_iff]

end Sys2Proof.Machine
end

