-- ==== Sys2Proof/Laws/PortEvents.lean ====
section
/-!
SUPPORT. What the events of the radio ports do, in the words of Safety.lean: states, guards, limits, restarts, carrier drops,
emergencies.
-/

namespace Sys2Proof.Machine

theorem suppressed_iff (r : PortRec) : r.suppressed = true ↔ r.Suppressed := by
  unfold PortRec.suppressed PortRec.Suppressed PortRec.guardActive
  cases r.guard <;> simp [or_assoc]

theorem limitTimer_eq (n) : limitTimer n = limitFrames n := by
  unfold limitTimer limitFrames startTimer Config.sec
  split <;> simp; omega

theorem guardFrames_eq (n) : guardFrames n = 400 * n := by unfold guardFrames Config.ms; omega

theorem startGuard_guarded (r : PortRec) : r.startGuard = r.guarded := by
  unfold PortRec.startGuard PortRec.guarded guardAfter startTimer
  rw [guardFrames_eq]
  split <;> rfl

theorem stateOnReturn_eq (d : Part) (p) : d.serviceState p = d.stateOnReturn p := by
  unfold Part.serviceState Part.stateOnReturn Part.floorTest
  cases d.groupOf p with
  | none => rfl
  | some g => by_cases h1 : (d.floor g).state = .free <;> by_cases h2 : (d.floor g).holder = some (.port p) <;> simp [h1, h2]

theorem settle_off (was : Bool) (x : PortRec) (h : was = true) : x.settle was = if x.Suppressed then x.quiet else x.refiltered := by
  have h2 := suppressed_iff x
  unfold PortRec.settle PortRec.filterRestart PortRec.refiltered PortRec.quiet
  by_cases a : x.Suppressed
  · simp [h2.2 a, a]
  · have : x.suppressed = false := by simpa using (fun h => a (h2.1 h))
    simp [this, a, h]

theorem goTo_backTo (r : PortRec) (st : PortState) (h : r.state = .cooldown ∨ r.state = .latched ∨ r.state = .offline)
   (hst : st = .idle ∨ st = .keyed ∨ st = .offline) : r.goTo st = r.backTo st := by
  have hs : r.suppressed = true := (suppressed_iff r).2 (by rcases h with h | h | h <;> simp [PortRec.Suppressed, h])
  unfold PortRec.goTo PortRec.change
  have hk : r.state ≠ .keyed := by rcases h with h | h | h <;> simp [h]
  simp only [hk, false_and, if_false]
  rw [settle_off _ _ hs]
  unfold PortRec.backTo PortRec.enter PortRec.quiet PortRec.refiltered PortRec.Suppressed
  rcases hst with e | e | e <;> subst e <;> cases hg : r.guard <;> cases hd : r.settings.duplex <;> simp [hg, hd, limitTimer_eq]

theorem cooldownFrames_eq (k : Fin 5) : cooldownFrames k = 8000 * [1, 2, 5, 10, 20].getD k.val 0 := by revert k; decide

theorem goTo_outOf (r : PortRec) (st : PortState) (hst : st = .offline ∨ st = .cooldown ∨ st = .latched) :
  r.goTo st = if r.state = .keyed then r.guarded.outOfService st else r.outOfService st := by
  unfold PortRec.goTo PortRec.change
  have h1 : st ≠ .source := by rcases hst with h | h | h <;> simp [h]
  have h2 : st ≠ .keyed := by rcases hst with h | h | h <;> simp [h]
  simp only [ne_eq, h1, h2, not_false_eq_true, and_true]
  rw [startGuard_guarded]
  split <;> unfold PortRec.settle <;> rw [if_pos] <;>
  first
  | (apply (suppressed_iff _).2; rcases hst with h | h | h <;> simp [PortRec.Suppressed, PortRec.guarded, PortRec.enter, h])
  | (rcases hst with h | h | h <;> simp [PortRec.outOfService, PortRec.guarded, PortRec.enter, h, startTimer, cooldownFrames_eq])

theorem restarted_eq (r : PortRec) : r.startRestart = r.restarted := by
  unfold PortRec.startRestart PortRec.restarted
  have : restartFrames r.settings.restartTimeout = timeoutFrames r.settings.restartTimeout := by
    generalize r.settings.restartTimeout = x; revert x; decide
  rw [this]; rfl

theorem memberUnavailable_spec (p) (d : Part) : d.BecomesUnavailable (d.memberUnavailable p) p := by
  unfold Part.BecomesUnavailable Part.memberUnavailable
  cases d.groupOf p with
  | none => rfl
  | some g => exact losesPlace ..

theorem sourceLost_spec (p) (d : Part) : d.SourceLost (d.sourceLost p) p := by
  unfold Part.SourceLost Part.sourceLost
  cases d.groupOf p with
  | none => rfl
  | some g =>
    dsimp only
    split
    · next h => have := losesPlace g p .sourceLost d; rwa [if_pos h] at this
    · rfl

theorem endsTalk_spec (g) (d : Part) : d.EndsTalk (d.normalEnd g) g := by
  unfold Part.EndsTalk
  dsimp only
  have e : (∃ e ∈ (d.floor g).waiting, e.emergency = true) ↔ hasEmergency (d.floor g).waiting = true := by simp [hasEmergency]
  simp only [e]
  split
  · next h => exact normalEnd_goes g d h
  · next h =>
    rw [normalEnd_hang g d h, floorNotice_told]
    have : (d.modFloor g fun f =>
      { f with state := .hang, mark := false, preemptTimer := none,
               hangTimer := startTimer (hangFrames (d.group g).settings.hang) }) = d.modFloor g fun _ => { d.floor g with state := .hang, mark := false, preemptTimer := none, hangTimer := some (800 * (d.group g).settings.hang) } := by
      apply Part.ext_views <;> intros <;> try rfl
      simp only [modFloor_floor]; split
      · simp [startTimer, hangFrames, Config.ms]; omega
      · rfl
    rw [this]
    congr 1
    funext r
    simp [Part.floorNews]

theorem drops_spec (p) (d : Part) : d.DropsCarrier (d.carrierDrop p) p := by
  unfold Part.DropsCarrier Part.carrierDrop
  split
  · dsimp only
    rw [groupOf_congr (d := d) (e := d.modPort p PortRec.endTalk) (by simp)]
    cases d.groupOf p with
    | none => rfl
    | some g =>
      dsimp only
      by_cases h : (d.floor g).holder = some (.port p)
      · rw [if_pos h, if_pos (show ((d.modPort p PortRec.endTalk).floor g).holder = _ from h)]; exact endsTalk_spec ..
      · rw [if_neg h, if_neg (show ¬ ((d.modPort p PortRec.endTalk).floor g).holder = _ from h)]
  · cases d.groupOf p with
    | none => rfl
    | some g =>
      dsimp only
      unfold Part.leaveIfWaiting
      by_cases h : (d.floor g).waits (.port p) = true
      · rw [if_pos h, if_pos ((waits_iff ..).1 h)]; exact leaveList_leftBy ..
      · rw [if_neg h, if_neg (fun hh => h ((waits_iff ..).2 hh))]

theorem carrierNotice_told (p on) (d : Part) : d.carrierNotice p on = d.told (d.carrierNews p on) := by
  unfold Part.carrierNotice
  dsimp only
  by_cases h : (d.port p).settings.trigger.allows on = true
  · rw [if_pos h, notify_told]
    congr 1
    funext r
    unfold toAll onlyTo Part.carrierNews
    revert h
    cases hh : (d.port p).settings.trigger <;> cases on <;> simp [Trigger.allows, hh]
  · rw [if_neg h]
    have : d.carrierNews p on = fun _ => [] := by
      funext r
      unfold Part.carrierNews
      revert h
      cases hh : (d.port p).settings.trigger <;> cases on <;> simp [Trigger.allows, hh]
    rw [this]
    apply Part.ext_views <;> intros <;> simp [told_ctl]

theorem raises_spec (p) (d : Part) : d.RaisesEmergency (d.emergencyRaised p) p := by
  unfold Part.RaisesEmergency Part.emergencyRaised
  cases hg : d.groupOf p with
  | none => rfl
  | some g =>
    dsimp only
    have e : ((d.floor g).waitsRoutine (.port p) = true) ↔ (∃ e ∈ (d.floor g).waiting, e.source = .port p ∧ e.emergency = false) := by
      simp [FloorRec.waitsRoutine]
    simp only [e]
    split
    · exact emergencyArrived_meets ..
    · by_cases h : (d.port p).state = .source ∧ (d.floor g).holder = some (.port p)
      · rw [if_pos h]
        unfold Part.markTalk
        by_cases hm : (d.floor g).mark = true
        · simp [hm]
        · rw [if_neg hm, if_pos (by simpa [h] using hm), floorNotice_told]
          have : (d.modFloor g fun f => { f with mark := true, preemptTimer := none }) = d.modFloor g fun _ => { d.floor g with mark := true, preemptTimer := none } := by
            apply Part.ext_views <;> intros <;> try rfl
          rw [this]
          congr 1
          funext r; simp [Part.floorNews]
      · rw [if_neg h, if_neg (fun x => h ⟨x.1, x.2.1⟩)]

theorem portNotice_mod (d : Part) (p cause) (f : PortRec → PortRec) (h : (f (d.port p)).settings = (d.port p).settings) :
  (d.modPort p f).portNotice p cause = (d.modPort p f).told (d.portNews p (f (d.port p)).state cause) := by
  rw [portNotice_told]
  congr 1
  funext r
  rw [portNews_modPort _ _ _ h]
  simp

theorem goTo_settings (st) (r : PortRec) : (r.goTo st).settings = r.settings := by rw [goTo_fields]

theorem modPort_const (d : Part) (p) (f : PortRec → PortRec) : d.modPort p f = d.modPort p fun _ => f (d.port p) := by
  apply Part.ext_views <;> intros <;> try rfl

theorem sor (d : Part) (p) : d.stateOnReturn p = .idle ∨ d.stateOnReturn p = .keyed ∨ d.stateOnReturn p = .offline := by
  unfold Part.stateOnReturn; split
  · simp
  · split <;> simp

theorem limitOut_eq (r : PortRec) : r.limitOut = if r.state = .keyed then r.guarded.limited else r.limited := by
  unfold PortRec.limitOut PortRec.limited
  have : (match r.settings.limitAction with | .restore => PortState.cooldown | .latch => .latched) = (if r.settings.limitAction = .restore then PortState.cooldown else .latched) := by
    cases r.settings.limitAction <;> rfl
  have e : (r.goTo (match r.settings.limitAction with | .restore => PortState.cooldown | .latch => .latched)) = _ := goTo_outOf _ _ (by cases r.settings.limitAction <;> simp)
  rw [this] at e
  exact (congrArg r.goTo this).trans e

theorem limitOut_settings (r : PortRec) : r.limitOut.settings = r.settings := goTo_settings ..

end Sys2Proof.Machine
end

