-- ==== Sys2Proof/Laws/Frames.lean ====
section
/-!
SUPPORT. The audio switch and the TDM frame in the statements' words: levels, counts, the routed sample, and what a frame leaves
of each record.
-/

namespace Sys2Proof.Machine

theorem isLevel_levelOf (peak : Nat) : IsLevel peak (levelOf peak) := by
  unfold IsLevel levelOf
  by_cases h0 : peak = 0
  · right; simp [h0]
  rw [if_neg h0]
  cases hf : (List.range 64).find? (reaches peak) with
  | none =>
    right
    refine ⟨?_, rfl⟩
    intro n hn ⟨_, h⟩
    have := List.find?_eq_none.1 hf n (by simp; omega)
    simp [reaches] at this
    omega
  | some d =>
    left
    have h1 := List.find?_some hf
    have h2 := List.mem_of_find?_eq_some hf
    simp at h2
    refine ⟨d, by omega, ⟨by omega, by simpa [reaches] using h1⟩, ?_, rfl⟩
    intro k hk ⟨_, h⟩
    rw [List.find?_range_eq_some] at hf
    have := hf.2.2 k hk
    simp [reaches] at this
    omega

theorem detects_eq (r : PortRec) (h : Bool) : r.rawDetect h = r.detects h := by
  unfold PortRec.rawDetect PortRec.detects PortRec.lineActive
  cases r.settings.polarity <;> cases r.settings.detect <;> simp

theorem attack_eq (k : Fin 5) : filterFrames k = attackFrames k := by revert k; decide

theorem suppressed_of (r r' : PortRec) (h1 : r'.settings = r.settings) (h2 : r'.state = r.state) (h3 : r'.guard = r.guard) : r'.suppressed = r.suppressed := by
  unfold PortRec.suppressed PortRec.guardActive; rw [h1, h2, h3]

/-! One frame, record by record. -/

theorem frame_port (rx mics) (d : Part) (p) : (d.frame rx mics).port p = (d.port p).frame d.loading (tget rx p) := by
  unfold Part.frame Part.port; exact tget_tmap ..

theorem frame_group (rx mics) (d : Part) (p) : (d.frame rx mics).group p = (d.group p).tick := by
  unfold Part.frame Part.group; exact tget_tmap ..

theorem frame_floor (rx mics) (d : Part) (p) : (d.frame rx mics).floor p = (d.floor p).tick := by
  unfold Part.frame Part.floor; exact tget_tmap ..

/-! The events of counts, taken before a frame where they are due. -/

theorem runs_append {l₁ l₂ : List Instr} {s m t : State} (h₁ : Runs l₁ s m) (h₂ : Runs l₂ m t) : Runs (l₁ ++ l₂) s t := by
  induction l₁ generalizing s with
  | nil => cases h₁; exact h₂
  | cons i l ih => obtain ⟨n, hn, hr⟩ := h₁; exact ⟨n, hn, ih hr⟩

theorem runs_run {i : Instr} {l : List Instr} {s t : State} (f : Part → Part) (h : exec i s = s.run f)
    (hr : Runs l { s with part := f s.part } t) : Runs (i :: l) s t := ⟨_, h, hr⟩

theorem portCatchUp_runs (p : PortNo) (s : State) :
    Runs [.emergencyStatusAsserted p, .emergencyStatusReleased p, .linkLoss p, .linkReturn p, .qualifiedCarrierYes p,
      .qualifiedCarrierNo p] s { s with part := s.part.portCatchUp p } := by
  unfold Part.portCatchUp
  exact runs_run (Part.emergencyAsserted p) rfl <| runs_run (Part.emergencyReleased p) rfl <| runs_run (Part.linkLoss p) rfl <|
    runs_run (Part.linkReturn p) rfl <| runs_run (Part.carrierYes p) rfl <| runs_run (Part.carrierNo p) rfl (Eq.refl _)

theorem portsCatchUp_runs (ps : List PortNo) (s : State) :
    Runs (ps.flatMap fun p => [.emergencyStatusAsserted p, .emergencyStatusReleased p, .linkLoss p, .linkReturn p,
      .qualifiedCarrierYes p, .qualifiedCarrierNo p]) s { s with part := Part.each Part.portCatchUp ps s.part } := by
  induction ps generalizing s with
  | nil => rfl
  | cons p ps ih =>
    have h := ih { s with part := s.part.portCatchUp p }
    dsimp only at h
    rw [List.flatMap_cons, each_cons]
    exact runs_append (portCatchUp_runs p s) h

/-- What comes before a frame is a run of the events' own commands. -/
theorem catchUp_runs (s : State) : Runs countEvents s { s with part := s.part.catchUp } := by
  have h := portsCatchUp_runs (List.finRange 24) s
  unfold countEvents Part.catchUp
  generalize Part.each Part.portCatchUp (List.finRange 24) s.part = d at h ⊢
  exact runs_append h (runs_run Part.levelBlockEnd rfl (Eq.refl _))

/-- An event whose count has not reached its length changes nothing. -/
theorem portCatchUp_id (d : Part) (p : PortNo) (h : d.NothingDue) : d.portCatchUp p = d := by
  obtain ⟨he, hl, hr⟩ := h.2 p
  have h1 : (d.port p).emergencyDue = false := by
    unfold PortRec.emergencyDue Config.emergencyFrames; simp only [decide_eq_false_iff_not]; omega
  have h2 : (d.port p).linkDue = false := by
    unfold PortRec.linkDue Config.linkDownFrames Config.linkUpFrames
    split at hl <;> rename_i hu <;> simp only [hu, if_true, Bool.false_eq_true, if_false, decide_eq_false_iff_not] <;> omega
  have h3 : (d.port p).runDue = false := by
    unfold PortRec.runDue
    rcases hr with hr | hr
    · simp [hr]
    · simp only [Bool.and_eq_false_iff, decide_eq_false_iff_not]; omega
  simp [Part.portCatchUp, Part.emergencyAsserted, Part.emergencyReleased, Part.linkLoss, Part.linkReturn, Part.carrierYes,
    Part.carrierNo, h1, h2, h3]

/-- With no count due, nothing comes before the frame. -/
theorem catchUp_id (d : Part) (h : d.NothingDue) : d.catchUp = d := by
  have h1 : ∀ ps, Part.each Part.portCatchUp ps d = d := by
    intro ps
    induction ps with
    | nil => rfl
    | cons p ps ih => rw [each_cons, portCatchUp_id d p h, ih]
  have h2 : d.blockDue = false := by
    unfold Part.blockDue Config.levelBlockFrames; simp only [decide_eq_false_iff_not]; have := h.1; omega
  unfold Part.catchUp Part.levelBlockEnd
  rw [h1, h2]; rfl

/-- A frame is what it does to the part that the due events leave. -/
theorem tdmFrame_runs (rx mics) (s : State) : ∃ m : Part, Runs countEvents s { s with part := m } ∧
    (s.part.NothingDue → m = s.part) ∧ exec (.tdmFrame rx mics) s = .next { s with part := m.frame rx mics } :=
  ⟨s.part.catchUp, catchUp_runs s, catchUp_id s.part, rfl⟩

theorem magnitude_eq (x : Sample) : magnitude x = (if x.toInt.natAbs > 32767 then 32767 else x.toInt.natAbs) := by
  unfold magnitude; split <;> omega

theorem taken_eq (d : Part) (i : TdmSlot) : tget d.taken i = d.takenAt i.val := by
  unfold tget Part.takenAt; simp [List.getD_eq_getElem?_getD]

theorem routed_eq (d : Part) (g) : d.routedSample g = (d.routedSlot g).map d.takenAt := by
  unfold Part.routedSample Part.routedSource Part.routedSlot Part.takenAt
  have : ∀ i : TdmSlot, tget d.taken i = d.taken.toList.getD i.val 0 := by
    intro i; unfold tget; simp [List.getD_eq_getElem?_getD]
  have h2 : ∀ x : Source, x.number = x.slot.val := by intro x; cases x <;> rfl
  cases (d.floor g).state <;> simp only [Option.map_map, Option.map_none, Function.comp_def, this, h2]

end Sys2Proof.Machine
end

