-- ==== Sys2Proof/Laws/Lists.lean ====
section
/-!
SUPPORT. Lists of numbers as request frames carry them, and the one-byte codes.
-/

namespace Sys2Proof.Machine

theorem numsOf_some {n : Nat} (bs : List Byte) : (∃ is, numsOf n bs = some is) ↔ ∀ b ∈ bs, b.toNat < n := by
  induction bs with
  | nil => simp [numsOf]
  | cons b bs ih =>
    unfold numsOf
    constructor
    · rintro ⟨is, h⟩
      split at h
      · next i js h1 h2 =>
        intro x hx
        rcases List.mem_cons.1 hx with rfl | hx
        · have := numOf_eq.1 h1; omega
        · exact ih.1 ⟨_, h2⟩ x hx
      · simp at h
    · intro h
      obtain ⟨js, hj⟩ := ih.2 (fun x hx => h x (List.mem_cons_of_mem _ hx))
      have hb := h b (List.mem_cons_self ..)
      rw [numOf_some (i := ⟨b.toNat, hb⟩) rfl, hj]
      exact ⟨_, rfl⟩

theorem numsOf_map {n : Nat} {bs : List Byte} {is : List (Fin n)} (_hn : n ≤ 256) (h : numsOf n bs = some is) : bs = is.map (fun i => BitVec.ofNat 8 i.val) := by
  induction bs generalizing is with
  | nil => simp [numsOf] at h; simp [h]
  | cons b bs ih =>
    unfold numsOf at h
    split at h
    · next i js h1 h2 =>
      simp at h; subst h
      have := numOf_eq.1 h1
      have e : b = BitVec.ofNat 8 i.val := by apply BitVec.eq_of_toNat_eq; simp; omega
      simp [← e, ← ih h2]
    · simp at h

theorem numsOf_of_map {n : Nat}  {is : List (Fin n)} (hn : n ≤ 256) : numsOf n (is.map (fun i => BitVec.ofNat 8 i.val)) = some is := by
  induction is with
  | nil => rfl
  | cons i is ih =>
    simp only [List.map_cons, numsOf]
    rw [ih, numOf_some (i := i) (by have := i.isLt; simp; omega)]

theorem distinct_iff {α} [DecidableEq α] (l : List α) : distinct l = true ↔ l.Nodup := by
  induction l with
  | nil => simp [distinct]
  | cons a l ih => simp [distinct, ih]

theorem nodup_map {n : Nat} (hn : n ≤ 256) (is : List (Fin n)) : (is.map (fun i => BitVec.ofNat 8 i.val)).Nodup ↔ is.Nodup := by
  have inj : ∀ i j : Fin n, BitVec.ofNat 8 i.val = BitVec.ofNat 8 j.val → i = j := by
    intro i j h
    have := congrArg BitVec.toNat h
    simp at this
    ext; omega
  induction is with
  | nil => simp
  | cons a l ih =>
    simp only [List.map_cons, List.nodup_cons, ih, List.mem_map, not_exists, not_and]
    constructor
    · rintro ⟨h1, h2⟩; exact ⟨fun h => h1 a h rfl, h2⟩
    · rintro ⟨h1, h2⟩; exact ⟨fun x hx e => h1 (inj _ _ e ▸ hx), h2⟩

theorem mono_mem {l : List GroupNo} (g) : BitVec.ofNat 8 g.val ∈ l.map (fun i : GroupNo => BitVec.ofNat 8 i.val) ↔ g ∈ l := by
  have inj : ∀ i j : GroupNo, BitVec.ofNat 8 i.val = BitVec.ofNat 8 j.val → i = j := by decide
  simp only [List.mem_map]
  constructor
  · rintro ⟨x, hx, e⟩; exact inj _ _ e ▸ hx
  · intro h; exact ⟨g, h, rfl⟩

theorem srcClass_byte (b : Byte) : (1 < b.toNat → SrcClass.ofByte b = none) ∧ (¬ 1 < b.toNat → SrcClass.ofByte b = some (if b = 0 then .high else .low)) := by
  unfold SrcClass.ofByte
  constructor
  · intro h
    have h0 : b ≠ 0 := by rintro rfl; simp at h
    have h1 : b ≠ 1 := by rintro rfl; simp at h
    rw [if_neg h0, if_neg h1]
  · intro h
    by_cases h0 : b = 0
    · simp [h0]
    · have h1 : b = 1 := by
        apply BitVec.eq_of_toNat_eq
        have : b.toNat ≠ 0 := by intro e; exact h0 (BitVec.eq_of_toNat_eq e)
        simp; omega
      simp [h1]

theorem bool_byte (b : Byte) : (1 < b.toNat → boolOf b = none) ∧ (b.toNat ≤ 1 → boolOf b = some (decide (b.toNat = 1))) := by
  unfold boolOf
  constructor
  · intro h
    have h0 : b ≠ 0 := by rintro rfl; simp at h
    have h1 : b ≠ 1 := by rintro rfl; simp at h
    rw [if_neg h0, if_neg h1]
  · intro h
    by_cases h0 : b = 0
    · simp [h0]
    · have h1 : b = 1 := by
        apply BitVec.eq_of_toNat_eq
        have : b.toNat ≠ 0 := by intro e; exact h0 (BitVec.eq_of_toNat_eq e)
        simp; omega
      simp [h1]

theorem find_first {α} {q : α → Bool} {ws before after : List α} {e : α} (h : ws = before ++ e :: after) (h1 : q e = true) (h2 : ∀ x ∈ before, ¬ q x = true) :
   ws.find? q = some e := by
  subst h
  rw [List.find?_append, List.find?_eq_none.2 h2]
  simp [h1]

@[simp] theorem taking_console (d : Part) (c g k) : (d.taking c g).console k = d.console k := rfl
@[simp] theorem taking_floor (d : Part) (c g k) : (d.taking c g).floor k = d.floor k := rfl
@[simp] theorem taking_port (d : Part) (c g k) : (d.taking c g).port k = d.port k := rfl
@[simp] theorem taking_members (d : Part) (c g k) : ((d.taking c g).group k).members = (d.group k).members := renewed_members ..
@[simp] theorem taking_settings (d : Part) (c g k) : ((d.taking c g).group k).settings = (d.group k).settings := renewed_settings ..
@[simp] theorem taking_holder (d : Part) (c g k) : ((d.taking c g).group k).holdHolder = (d.group k).holdHolder := renewed_holder ..
theorem taking_floorNews (d : Part) (c g k) (f) (cause) : (d.taking c g).floorNews k f cause = d.floorNews k f cause := by
  funext r; simp [Part.floorNews]

theorem taking_answer (d : Part) (c g) (f st) (data) : Part.respond c (frameKind f) (frameTag f) st data (d.taking c g) = (d.renewed c g).answered c f st data := by
  show Part.respond c _ _ _ _ ((d.takeFrame c).renewed c g) = _
  rw [renewed_takeFrame, respond_takeFrame]

theorem formed_false (r : GroupRec) (h : r.members = []) : r.formed = false := by simp [GroupRec.formed, h]

theorem formed_true (r : GroupRec) (h : r.members ≠ []) : r.formed = true := (formed_iff r).2 h

end Sys2Proof.Machine
end

