-- ==== Sys2Proof/Laws/PortReset.lean ====
section
/-!
SUPPORT. The records of the reset state, and what a controller port reset does beside the port itself, each step said once.
-/

namespace Sys2Proof.Machine

theorem port_reset (p) : State.reset.part.port p = PortRec.reset p := by
  simp [State.reset, Part.reset, Part.port, tget_ofFn]

theorem group_reset (p) : State.reset.part.group p = GroupRec.reset := by
  simp [State.reset, Part.reset, Part.group, tget_replicate]

theorem floor_reset (p) : State.reset.part.floor p = FloorRec.reset := by
  simp [State.reset, Part.reset, Part.floor, tget_replicate]

theorem console_reset (p) : State.reset.part.console p = ConsoleRec.reset := by
  simp [State.reset, Part.reset, Part.console, tget_replicate]

theorem ctl_reset (p) : State.reset.part.ctl p = CtlPort.reset := by
  simp [State.reset, Part.reset, Part.ctl, tget_replicate]

/-! The steps of a controller port reset (R146). -/

theorem endHoldOf_group (c : CtlNo) (g : GroupNo) (d : Part) (x : GroupNo) :
    (d.endHoldOf c g).group x =
      if x = g ∧ (d.group x).holdHolder = some c then
        { d.group x with holdHolder := none, holdTimer := none }.timed (decide ((d.floor x).state = FloorState.free))
      else d.group x := by
  unfold Part.endHoldOf
  by_cases h : (d.group g).holdHolder = some c
  · rw [if_pos h]
    unfold Part.endHold
    rw [refreshDissolve_group]
    by_cases hx : x = g
    · subst hx; rw [if_pos rfl, if_pos ⟨rfl, h⟩]; simp only [modGroup_group, if_pos]; rfl
    · simp [hx, modGroup_group]
  · rw [if_neg h]
    by_cases hx : x = g
    · subst hx; simp [h]
    · simp [hx]

theorem endHoldOf_fields (c : CtlNo) (g : GroupNo) (d : Part) :
    d.endHoldOf c g = { d with groups := (d.endHoldOf c g).groups } := by
  unfold Part.endHoldOf; split <;> rfl

theorem timed_holder (free : Bool) (r : GroupRec) : (r.timed free).holdHolder = r.holdHolder := rfl

theorem endHolds_group (c : CtlNo) (l : List GroupNo) (d : Part) :
    (∀ x, (Part.each (Part.endHoldOf c) l d).group x =
      if x ∈ l ∧ (d.group x).holdHolder = some c then
        { d.group x with holdHolder := none, holdTimer := none }.timed (decide ((d.floor x).state = FloorState.free))
      else d.group x) ∧
    Part.each (Part.endHoldOf c) l d = { d with groups := (Part.each (Part.endHoldOf c) l d).groups } := by
  induction l generalizing d with
  | nil => simp
  | cons g l ih =>
    obtain ⟨h1, h2⟩ := ih (d.endHoldOf c g)
    have hf : ∀ x, (d.endHoldOf c g).floor x = d.floor x := by intro x; rw [endHoldOf_fields]; rfl
    simp only [each_cons]
    refine ⟨?_, ?_⟩
    · intro x
      rw [h1, hf, endHoldOf_group]
      by_cases hx : x = g <;> by_cases hl : x ∈ l <;> by_cases hh : (d.group x).holdHolder = some c <;>
        simp [hx, hl, hh]
      all_goals (subst hx; simp [hh, timed_holder])
    · rw [h2, endHoldOf_fields c g d]

/-- Every hold of the controller ends, and nothing else changes. -/
theorem endHolds_ended (c : CtlNo) (d : Part) : Part.each (Part.endHoldOf c) (List.finRange 12) d = d.holdsEnded c := by
  obtain ⟨h1, h2⟩ := endHolds_group c (List.finRange 12) d
  generalize Part.each (Part.endHoldOf c) (List.finRange 12) d = e at h1 h2 ⊢
  apply Part.ext_views <;> intros
  case hg => rw [h1]; simp [Part.holdsEnded, Part.group, tget_tmap]
  all_goals (rw [h2]; rfl)

/-- The floor involvement of the console ends. -/
theorem endConsole_leaves (c : CtlNo) (d : Part) : d.ConsoleLeaves (d.endConsole c) c := by
  unfold Part.ConsoleLeaves Part.endConsole
  cases (d.console c).involvement with
  | none => rfl
  | waiter g => rfl
  | holder g => exact endNoHang_goes g .portReset d

theorem consoleLeaves_sameRest (d t : Part) (c : CtlNo) (h : d.ConsoleLeaves t c) : d.SameRest t := by
  unfold Part.ConsoleLeaves at h
  split at h
  · subst h; exact Part.SameRest.refl _
  · subst h; simp [Part.SameRest]
  · exact h.2.2.2.2.2

/-- A controller port reset, all its steps. -/
theorem controllerPortReset_resets (c : CtlNo) (d : Part) :
    Part.PortResets c (d.ctl c).portReset d (d.controllerPortReset c) := by
  unfold Part.controllerPortReset
  dsimp only
  have h1 : d.modCtl c CtlPort.portReset = d.modCtl c fun _ => (d.ctl c).portReset := by
    apply Part.ext_views <;> intros <;> simp [modCtl_ctl]
  rw [h1, endHolds_ended]
  refine ⟨_, endConsole_leaves c _, ?_⟩
  have hs := consoleLeaves_sameRest _ _ _ (endConsole_leaves c ((d.modCtl c fun _ => (d.ctl c).portReset).holdsEnded c))
  generalize hx : ((d.modCtl c fun _ => (d.ctl c).portReset).holdsEnded c).endConsole c = e at hs
  have he : e.storeOp = d.storeOp := hs.2.2.2.2.2.2
  dsimp only
  have hstore : (e.modConsole c fun r => { r with involvement := Involvement.none, monitor := [] }).storeOp.map (StoreOp.unwanted c) =
      d.storeOp.map fun op => if op.requester = some c then { op with responseWanted := false } else op := by
    show e.storeOp.map _ = _
    rw [he]; rfl
  rw [hstore]
  by_cases ha : (d.ctl c).attached = true
  · rw [if_pos ha]
    apply Part.ext_views <;> intros
    case hq r =>
      rw [notify_receives, told_ctl]
      unfold toAll Part.controllerRecipients
      by_cases hr : r = c
      · simp [hr]
      · by_cases hat : (e.ctl r).attached = true
        · rw [if_pos (by simp [hr]; exact hat)]; simp [ha, hr]
        · rw [if_neg (by simp only [Bool.and_eq_true, not_and]; intro h; exact absurd h hat)]
          have hat' : (e.ctl r).attached = false := by simpa using hat
          simp only [ha, hr, ne_eq, not_false_eq_true, and_self, if_true]
          show e.ctl r = (e.ctl r).receives _
          simp [CtlPort.admitNotice, hat']
    all_goals rfl
  · rw [if_neg ha]
    apply Part.ext_views <;> intros
    case hq r => rw [told_ctl]; simp [ha]
    all_goals rfl

/-! What the reset leaves of the port itself. -/

theorem receives_detached (ns : List Notice) (q : CtlPort) (h : q.attached = false) : q.receives ns = q := by
  unfold CtlPort.receives
  induction ns with
  | nil => rfl
  | cons n ns ih =>
    simp only [List.foldl_cons]
    rw [show q.admitNotice n = q by simp [CtlPort.admitNotice, h]]
    exact ih

theorem consoleLeaves_detached (d t : Part) (c r : CtlNo) (h : d.ConsoleLeaves t c) (ha : (d.ctl r).attached = false) :
    t.ctl r = d.ctl r := by
  unfold Part.ConsoleLeaves at h
  split at h
  · subst h; rfl
  · subst h; rfl
  · rw [h.2.2.2.2.1, receives_detached _ _ ha]

/-- A detached port that the reset leaves is the port after it, whatever else the reset reports. -/
theorem portResets_ctl (c : CtlNo) (q : CtlPort) (d t : Part) (h : Part.PortResets c q d t) (hq : q.attached = false) :
    t.ctl c = q := by
  obtain ⟨e, he, rfl⟩ := h
  rw [told_ctl, if_neg (by simp)]
  show (e.ctl c).receives [] = q
  rw [consoleLeaves_detached _ _ _ c he (by show ((d.modCtl c fun _ => q).ctl c).attached = false; simpa using hq)]
  show (d.modCtl c fun _ => q).ctl c = q
  simp

/-- The port reset reads of the port before it only whether it was attached. -/
theorem portResets_congr (c : CtlNo) (q : CtlPort) (t d e : Part) (h : Part.PortResets c q d t)
    (he : (d.modCtl c fun _ => q) = e.modCtl c fun _ => q) (ha : (d.ctl c).attached = (e.ctl c).attached)
    (hs : d.storeOp = e.storeOp) : Part.PortResets c q e t := by
  obtain ⟨x, hx, ht⟩ := h
  exact ⟨x, he ▸ hx, by rw [ht, ha, hs]⟩

end Sys2Proof.Machine
end

