-- ==== Sys2Proof/Laws/Recall.lean ====
section
/-!
SUPPORT. The recall in the statements' words: its three passes, group after group.
-/

namespace Sys2Proof.Machine

/-- An operation done for each item of a list is a chain of what it does for one. -/
theorem each_chain {α : Type} {R : α → Part → Part → Prop} {f : α → Part → Part} (h : ∀ a d, R a d (f a d)) (l : List α)
    (d : Part) : Part.Chain R l d (Part.each f l d) := by
  induction l generalizing d with
  | nil => rfl
  | cons a l ih => exact ⟨f a d, h a d, by rw [each_cons]; exact ih _⟩

theorem mem_placed (pre : Preset) (p : PortNo) : (Preset.placed pre).contains p = decide (∃ e ∈ pre, p ∈ e.members) := by
  simp [Preset.placed]

theorem recallClear_cleared (g : GroupNo) (d : Part) : d.FloorCleared (d.recallClear g) g .layout .layout :=
  clearFloor_ends g .layout .layout d

theorem recallLose_loses (pre : Preset) (g : GroupNo) (d : Part) : Part.RecallLoses pre g d (d.recallLose pre g) := by
  refine ⟨_, ?_, bumpRevision_revised g .recall _⟩
  unfold Part.leaveGroupAll
  simp only [mem_placed]
  exact each_chain (fun p d => leaveGroup_removes g p d) _ d

theorem recallTrim_trims (e : GroupEntry) (d : Part) : Part.RecallTrims e d (d.recallTrim e) := by
  unfold Part.RecallTrims Part.recallTrim Part.leaveGroupAll
  have h : ∀ p, (!e.members.contains p) = decide (p ∉ e.members) := by simp
  simp only [h]
  exact each_chain (fun p d => leaveGroup_removes e.group p d) _ d

theorem recallWrite_writes (e : GroupEntry) (d : Part) : Part.RecallWrites e d (d.recallWrite e) := by
  refine ⟨_, ?_, bumpRevision_revised e.group .recall _⟩
  have h : ∀ p, (!(d.group e.group).members.contains p) = decide (p ∉ (d.group e.group).members) := by simp
  simp only [h]
  exact each_chain (fun p d => reportJoin_reported e.group p d) _ _

/-- A recall is its three passes. -/
theorem recallApply_recalls (pre : Preset) (d : Part) : d.Recalls pre (d.losing pre) (d.recallApply pre) :=
  ⟨_, _, _, each_chain recallClear_cleared _ d, each_chain (recallLose_loses pre) _ _, each_chain recallTrim_trims _ _,
    each_chain recallWrite_writes _ _⟩

end Sys2Proof.Machine
end

