-- ==== Sys2Proof/Laws/Settings.lean ====
section
/-!
SUPPORT. The port settings and the port record as bytes, each code read back as its value, and PORT-SET's effect on one record.
-/

namespace Sys2Proof.Machine

theorem numbers_bytes (s : PortSettings) : s.bytes = asBytes s.numbers := by
  unfold PortSettings.bytes PortSettings.numbers asBytes
  cases s.srcClass <;> cases s.duplex <;> cases s.detect <;> cases s.polarity <;> cases s.limitAction <;> cases s.trigger <;> rfl

theorem class_byte (b : Byte) (k : SrcClass) : SrcClass.ofByte b = some k ↔ k.code = b := by
  unfold SrcClass.ofByte SrcClass.code
  cases k <;> split <;> try split
  all_goals simp_all <;> grind
theorem duplex_byte (b : Byte) (k : Duplex) : Duplex.ofByte b = some k ↔ k.code = b := by
  unfold Duplex.ofByte Duplex.code
  cases k <;> split <;> try split
  all_goals simp_all <;> grind
theorem detect_byte (b : Byte) (k : DetectSource) : DetectSource.ofByte b = some k ↔ k.code = b := by
  unfold DetectSource.ofByte DetectSource.code
  cases k <;> split <;> (try split) <;> try split
  all_goals simp_all <;> grind
theorem polarity_byte (b : Byte) (k : Polarity) : Polarity.ofByte b = some k ↔ k.code = b := by
  unfold Polarity.ofByte Polarity.code
  cases k <;> split <;> try split
  all_goals simp_all <;> grind
theorem action_byte (b : Byte) (k : LimitAction) : LimitAction.ofByte b = some k ↔ k.code = b := by
  unfold LimitAction.ofByte LimitAction.code
  cases k <;> split <;> try split
  all_goals simp_all <;> grind
theorem trigger_byte (b : Byte) (k : Trigger) : Trigger.ofByte b = some k ↔ k.code = b := by
  unfold Trigger.ofByte Trigger.code
  cases k <;> split <;> (try split) <;> (try split) <;> try split
  all_goals simp_all <;> grind
theorem num_byte {n : Nat} (hn : n ≤ 256) (b : Byte) (i : Fin n) : numOf n b = some i ↔ byteOf i.val = b := by
  rw [numOf_eq]
  have := i.isLt
  constructor
  · intro h; apply BitVec.eq_of_toNat_eq; simp [byteOf]; omega
  · intro h; rw [← h]; simp [byteOf]; omega

theorem ofBytes_eq (owner : CtlNo) (ps : List Byte) (hl : ps.length = 16) (v : PortSettings) :
    PortSettings.ofBytes owner ps = some v ↔ v.legal = true ∧ v.owner = owner ∧ v.bytes = ps := by
  match ps, hl with
  | [b0,b1,b2,b3,b4,b5,b6,b7,b8,b9,b10,b11,b12,b13,b14,b15], _ =>
  constructor
  · intro h
    unfold PortSettings.ofBytes at h
    simp only [arg, bind, Option.bind_eq_some_iff] at h
    obtain ⟨k0, h0, k1, h1, k2, h2, k3, h3, k4, h4, k5, h5, k11, h11, k12, h12, k13, h13, k15, h15, h⟩ := h
    simp only [List.getD_cons_zero, List.getD_cons_succ, Option.ite_none_right_eq_some, Option.some.injEq] at *
    obtain ⟨hleg, h⟩ := h
    subst h
    refine ⟨hleg, rfl, ?_⟩
    rw [class_byte] at h0; rw [duplex_byte] at h1; rw [detect_byte] at h2; rw [polarity_byte] at h3
    rw [num_byte (by omega)] at h4 h5 h12 h13
    rw [action_byte] at h11; rw [trigger_byte] at h15
    unfold PortSettings.bytes
    simp [h0,h1,h2,h3,h4,h5,h11,h12,h13,h15]
    simp [byteOf]
  · rintro ⟨hleg, ho, hb⟩
    unfold PortSettings.bytes at hb
    simp only [List.cons.injEq, and_true] at hb
    obtain ⟨h0,h1,h2,h3,h4,h5,h6,h7,h8,h9,h10,h11,h12,h13,h14,h15⟩ := hb
    unfold PortSettings.ofBytes
    simp only [arg, List.getD_cons_zero, List.getD_cons_succ]
    rw [(class_byte ..).2 h0, (duplex_byte ..).2 h1, (detect_byte ..).2 h2, (polarity_byte ..).2 h3, (num_byte (by omega) ..).2 h4, (num_byte (by omega) ..).2 h5,
       (action_byte ..).2 h11, (num_byte (by omega) ..).2 h12, (num_byte (by omega) ..).2 h13, (trigger_byte ..).2 h15]
    have hl := hleg
    unfold PortSettings.legal at hl
    simp only [Bool.and_eq_true, decide_eq_true_eq] at hl
    have e : ∀ (n : Nat) (b : Byte), byteOf n = b → n < 256 → b.toNat = n := by
      intro n b h hn; rw [← h]; simp [byteOf]; omega
    have e6 := e _ _ h6 (by omega); have e7 := e _ _ h7 (by omega); have e8 := e _ _ h8 (by omega)
    have e9 := e _ _ h9 (by omega); have e10 := e _ _ h10 (by omega); have e14 := e _ _ h14 (by omega)
    simp only [bind, Option.bind_some, e6, e7, e8, e9, e10, e14]
    have : ({ owner, srcClass := v.srcClass, duplex := v.duplex, detect := v.detect, polarity := v.polarity, attack := v.attack, release := v.release, openThreshold := v.openThreshold, closeThreshold := v.closeThreshold, tailGuard := v.tailGuard, transmitLimit := v.transmitLimit, carrierLimit := v.carrierLimit, limitAction := v.limitAction, cooldown := v.cooldown, restartTimeout := v.restartTimeout, restartPulse := v.restartPulse, trigger := v.trigger } : PortSettings) = v := by rw [← ho]
    rw [this, if_pos hleg]

theorem record_bytes (d : Part) (p : PortNo) : d.portRecordBytes p = asBytes (d.portRecord p) := by
  unfold Part.portRecordBytes Part.portRecord
  dsimp only
  rw [numbers_bytes]
  have e1 : (d.port p).state.code = BitVec.ofNat 8 (d.port p).state.number := by cases (d.port p).state <;> rfl
  have e2 : (d.port p).restartPhase.code = BitVec.ofNat 8 (match (d.port p).restartPhase with
     | .stopped => 0
     | .waiting => 1
     | .pulsing => 2) := by cases (d.port p).restartPhase <;> rfl
  have e3 : ∀ b : Bool, boolByte b = BitVec.ofNat 8 (if b = true then 1 else 0) := by decide
  have e4 : boolByte (d.port p).guardActive = BitVec.ofNat 8 (if (d.port p).guard = none then 0 else 1) := by
    unfold PortRec.guardActive; cases (d.port p).guard <;> rfl
  have e5 : optByte groupByte (d.groupOf p) = BitVec.ofNat 8 (orNone ((d.groupOf p).map Fin.val)) := by
    cases d.groupOf p <;> rfl
  rw [e1, e2, e4, e5, e3, e3, e3]
  simp [asBytes, ctlByte, byteOf] <;> rfl

theorem applySettings_eq (v : PortSettings) (r : PortRec) : r.applySettings v =
          (let r1 := { r with settings := v }.refiltered
          if v.restartTimeout = 0 ∧ r.restartPhase = .waiting then { r1 with restartPhase := .stopped, restartTimer := none }
          else if v.restartTimeout ≠ 0 ∧ r.settings.restartTimeout = 0 ∧ r.linkUp = false ∧ r.restartPhase = .stopped then
            r1.restarted
          else r1) := by
  unfold PortRec.applySettings PortRec.change
  rw [settle_eq]
  unfold PortRec.filterRestart PortRec.refiltered
  dsimp only
  by_cases h0 : v.restartTimeout = 0
  · simp [h0]
  · by_cases h1 : r.settings.restartTimeout = 0 <;> by_cases h2 : r.linkUp = true <;> by_cases h3 : r.restartPhase = .stopped <;> simp [h0, h1, h2, h3, restarted_eq]

end Sys2Proof.Machine
end

