-- ==== Sys2Proof/WellFormed.lean ====
section
/-!
DEFINITION. Which terms are commands the outside can give. The numbers are in range by their types; what is left to check is
that a frame completion brings at least its last byte (R134).
-/

namespace Sys2Proof

/-- The check on a command: a FRAME_COMPLETION carries at least the byte whose arrival it is. -/
def Instr.wellFormed : Instr → Bool
  | .frameCompletion _ bytes => !bytes.isEmpty
  | .deviceReset | .startUpLoadCompletion | .portResetAsserted _ | .portResetReleased _ | .directionByte _ _
  | .linkCycleEnd _ | .removal _ | .unknownKind _ | .attach _ | .detach _ | .noticeMask _ | .groupRead _
  | .groupAdd _ | .groupRemove _ | .groupSet _ | .groupDisband _ | .groupDigest _ | .hold _ | .release _
  | .portRead _ | .portSet _ | .portClear _ | .portGive _ | .portClaim _ | .consoleSet _ | .talkRequest _
  | .talkStart _ | .talkEnd _ | .talkCancel _ | .floorClear _ | .presetStore _ | .presetStoreCompletion
  | .portsStore _ | .portsStoreCompletion | .presetErase _ | .presetEraseCompletion | .presetRead _
  | .presetReadCompletion | .presetRecall _ | .presetRecallCompletion | .emergencyStatusAsserted _
  | .emergencyStatusReleased _ | .linkLoss _ | .linkReturn _ | .restartTimerExpiry _ | .restartPulseEnd _
  | .guardEnd _ | .qualifiedCarrierYes _ | .qualifiedCarrierNo _ | .levelBlockEnd | .tdmFrame _ _
  | .transmitLimitExpiry _ | .carrierLimitExpiry _ | .cooldownExpiry _ | .hangTimerExpiry _
  | .grantWindowExpiry _ | .preemptTimerExpiry _ | .dissolveTimerExpiry _ | .holdTimerExpiry _ => true

end Sys2Proof
end

