-- ==== Sys2Proof/Tests/Slice0.lean ====
section
/-!
SUPPORT. Small tests: the check on commands, values that the spec works out, a few single steps, and for every statement with
hypotheses a state and operands that meet them.
-/

namespace Sys2Proof.Tests

set_option Elab.async false

open Sys2Proof Sys2Proof.Machine

/-- The part with its start-up load done, every link UP and every port IDLE. -/
def up : Part :=
  { Part.reset with storeOp := none, ports := tmap (fun _ r => { r with linkUp := true, state := .idle }) Part.reset.ports }

/-- Group 2 with ports 0, 1 and 5, at revision 1. -/
def team : Part := up.modGroup 2 fun r => { r with members := [0, 1, 5], revision := 1 }

/-- Group 2 with port 1 talking and the other members KEYED. -/
def talking : Part :=
  (((team.modPort 1 fun r => { r with state := .source, carrier := true }).modPort 0 fun r => { r with state := .keyed }).modPort 5
    fun r => { r with state := .keyed }).modFloor 2 fun f => { f with state := .talk, holder := some (.port 1) }

/-- Group 2 granted to console 0. -/
def pending : Part :=
  (team.modFloor 2 fun f => { f with state := .pending, holder := some (.console 0), windowTimer := some 24000 }).modConsole 0
    fun r => { r with involvement := .holder 2 }

/-- Group 2 with console 0 parked. -/
def parked : Part :=
  (team.modFloor 2 fun f => { f with state := .hang, holder := some (.console 0), hangTimer := some 8000 }).modConsole 0
    fun r => { r with involvement := .holder 2 }

/-- Group 2 held by controller `k`. -/
def heldBy (k : CtlNo) (d : Part) : Part := d.modGroup 2 fun r => { r with holdHolder := some k, holdTimer := some 240000 }

/-- The part with every count of port `p` at its end. -/
def due (p : PortNo) (d : Part) : Part :=
  d.modPort p fun r =>
    { r with emergencyCount := 160, linkCount := if r.linkUp = true then 160 else 100, runCount := 160, runLength := 160 }

/-- A frame of kind `k` waits at controller port 0, which is attached. -/
def ask (k : ReqKind) (ps : List Byte) (d : Part) : State :=
  { part := d.modCtl 0 fun q => { q with attached := true, buffer := [requestFrame k 7 ps] }, pending := [] }

/-- Controller port 0 with its record changed. -/
def at0 (f : CtlPort → CtlPort) : State := { part := up.modCtl 0 f, pending := [] }

/-- The part in a state, with no command waiting. -/
def only (d : Part) : State := { part := d, pending := [] }

/-- The part that a next state holds, or the part after reset. -/
def after (o : Host.Outcome State Fault Refusal) : Part :=
  match o with
  | .next s => s.part
  | _ => Part.reset

/-! The check on commands. -/

theorem test_wellFormed_refuses_empty_completion : (Instr.frameCompletion 0 []).wellFormed = false := by decide
theorem test_wellFormed_accepts_one_byte : (Instr.frameCompletion 0 [5]).wellFormed = true := by decide

/-! Values that the spec works out. -/

theorem test_crc_of_nine_digits : crc (asBytes [0x31, 0x32, 0x33, 0x34, 0x35, 0x36, 0x37, 0x38, 0x39]) = 0x29B1 := by
  decide +kernel
theorem test_status_byte_while_starting : Part.reset.statusByte 3 = 0xBE := by decide +kernel
theorem test_status_byte_empty_port : up.statusByte 3 = 0x80 := by decide +kernel
theorem test_decision_1 : grantDecision [⟨.port 18, .low, false⟩, ⟨.port 13, .high, false⟩, ⟨.console 0, .high, false⟩,
    ⟨.port 19, .high, false⟩] 0 = some (⟨.port 13, .high, false⟩, 1) := by decide
theorem test_decision_3 :
    grantDecision [⟨.port 18, .low, false⟩, ⟨.port 19, .high, false⟩] 2 = some (⟨.port 18, .low, false⟩, 0) := by decide

theorem test_levels : [32767, 16384, 3277, 328, 24, 23, 0].map levelOf = [63, 56, 43, 23, 0, 0, 0] := by decide +kernel

/-- The floors of the worked example of console mixes, with the monitor sets of consoles 0, 2 and 4. -/
def mixing : Part :=
  let talk (p : PortNo) : FloorRec := { FloorRec.reset with state := .talk, holder := some (.port p) }
  let floors := (((((up.modFloor 1 fun _ => talk 7).modFloor 3 fun _ =>
    { FloorRec.reset with state := .pending, holder := some (.console 2), windowTimer := some 24000 }).modFloor 4 fun _ =>
      talk 20).modFloor 5 fun _ => talk 14).modFloor 6 fun _ =>
        { FloorRec.reset with state := .hang, holder := some (.port 3), hangTimer := some 8000 })
  let sets := ((floors.modConsole 0 fun r => { r with monitor := [1, 5] }).modConsole 2 fun r =>
    { r with monitor := [1, 3, 4, 6] }).modConsole 4 fun r => { r with monitor := [3, 4, 5] }
  { sets with taken := tmod (tmod (tmod (tmod sets.taken 7 fun _ => 20000) 26 fun _ => 9000) 20 fun _ => 18000) 14 fun _ => -6000 }
theorem test_console_mixes :
    [24, 25, 26, 27, 28].map (fun i => mixing.slotOut i) = [14000, 0, 32767, 0, 21000] := by decide +kernel

/-! Single steps. -/

theorem test_group_add_answers :
    (((after (exec (.groupAdd 0) (ask .groupAdd [2, 5, 0, 0] up))).ctl 0).outbound,
      ((after (exec (.groupAdd 0) (ask .groupAdd [2, 5, 0, 0] up))).group 2).members) =
    ([.notice (.layout 2 1 .request), .response 0x11 7 .ok [0, 1, 255, 0, 0]], [5]) := by decide +kernel
theorem test_carrier_takes_a_free_floor :
    let d := after (exec (.qualifiedCarrierYes 1) (only (due 1 team)))
    [(d.port 0).state, (d.port 1).state, (d.port 5).state, (d.port 2).state] = [.keyed, .source, .keyed, .idle] ∧
      (d.floor 2).state = .talk := by decide +kernel
theorem test_talk_end_hangs :
    ((after (exec (.qualifiedCarrierNo 1) (only (due 1 talking)))).floor 2).hangTimer = some 8000 := by decide +kernel
theorem test_frame_takes_what_is_due :
    let rx : RxSlot := { carrierHigh := true, emergencyHigh := false, valid := true, data := 0 }
    let d := after (exec (.tdmFrame (Vector.replicate 24 rx) (Vector.replicate 6 0))
      (only (team.modPort 1 fun r => { r with runCount := 160, runLength := 160 })))
    (d.port 1).state = .source ∧ (d.floor 2).state = .talk ∧ d.blockFrames = 1 := by decide +kernel
theorem test_read_hit_by_the_line_is_filler_after_it :
    let t := after (exec (.portResetAsserted 0) (at0 fun q => { q with cycle := .read true, outbound := [.notice .lost] }))
    (t.ctl 0).dataOut 3 = none ∧ ((after (exec (.portResetReleased 0) (only t))).ctl 0).dataOut 3 = some 0xFF := by
  decide +kernel
theorem test_fetch_places_nothing : (only up).withFetchWord 8 0 = only up := rfl

set_option synthInstance.maxSize 4000
set_option synthInstance.maxHeartbeats 200000

/-! For each statement with hypotheses, states and operands that meet them, clause by clause. -/

/-- Frame `fr k ps`, of kind `k`, is accepted from controller port 0 of part `d`. -/
abbrev fr (k : ReqKind) (ps : List Byte) : List Byte := requestFrame k 7 ps
abbrev ok (k : ReqKind) (ps : List Byte) (d : Part) : Prop := (ask k ps d).part.accepts 0 k (fr k ps)
/-- A numbered parameter of that frame. -/
abbrev pn (k : ReqKind) (ps : List Byte) (i : Nat) : Nat := (param (fr k ps) i).toNat
/-- Port 0 with frame `f` in its buffer. -/
abbrev raw (f : List Byte) (attached : Bool) (d : Part) : Part := d.modCtl 0 fun q => { q with attached := attached, buffer := [f] }
/-- A store operation that controller port 0 waits for. -/
def busy (k : StoreKind) (d : Part) : Part :=
  { d.modCtl 0 fun q => { q with reservations := 1 } with
    storeOp := some { kind := k, requester := some 0, responseWanted := true, tag := 7, timeLeft := some 40 } }
/-- A preset of group 2 and of group 4, which is empty. -/
def preset : Preset :=
  [{ group := 2, settings := { hang := 0, window := 1, preempt := 0, dissolve := 3 }, members := [5, 9] },
   { group := 4, settings := GroupSettings.default, members := [] }]
def withPreset (d : Part) : Part := d.setSlot 0 (some preset)

theorem test_witness_StepTakesTheFront : (only up).pending = [] := rfl

theorem test_witness_LoadCompletion :
    let d := withPreset Part.reset
    d.loading = true ∧ (∀ g, d.group g = State.reset.part.group g) ∧ (∀ g, (d.floor g).state = .free) ∧
      (∀ p, (d.port p).linkUp = false) ∧ tget d.slots 0 = some preset ∧ (preset.map fun e => e.group).Nodup ∧
      (∃ e ∈ preset, e.members ≠ []) ∧ (∃ e ∈ preset, e.members = []) := by decide +kernel

theorem test_witness_DirectionByte :
    let d := (at0 id).part
    let e := (at0 fun q => { q with cycle := .direction }).part
    let h := (at0 fun q => { q with resetLine := true }).part
    (d.ctl 0).resetLine = false ∧ (d.ctl 0).cycle = .closed ∧ (e.ctl 0).resetLine = false ∧ (e.ctl 0).cycle = .direction ∧
      (h.ctl 0).resetLine = true ∧ (h.ctl 0).cycle = .closed ∧
      ((at0 fun q => { q with resetLine := true, cycle := .ignored }).part.ctl 0).cycle ≠ .closed ∧ (0 : Byte) ≠ 0x3C ∧ (0 : Byte) ≠ 0xC3 := by decide +kernel

theorem test_witness_StatusByte :
    let d := (at0 fun q => { q with buffer := [[], []], outbound := List.replicate 16 (.notice .lost) }).part
    (d.ctl 0).buffer.length ≤ 2 ∧ (d.ctl 0).outbound.length ≤ 16 := by decide +kernel

theorem test_witness_FrameCompletion :
    let w := (at0 fun q => { q with cycle := .write }).part
    let v := (at0 fun q => { q with cycle := .write, frame := some [6, 2, 7] }).part
    let f : List Byte := [6, 2, 7, 0, 0, 0]
    let long : List Byte := 96 :: List.replicate 95 0
    (w.ctl 0).resetLine = false ∧ (w.ctl 0).cycle = .write ∧ (w.ctl 0).frame = none ∧
      (w.ctl 0).frame.getD [] ++ [5, 2, 7, 0, 0] = [5, 2, 7, 0, 0] ++ [] ∧
      ((w.ctl 0).frame.getD []).length < long.length ∧ long.length ≤ 96 ∧ (long.getD 0 0).toNat = long.length ∧
      (v.ctl 0).frame.getD [] ++ [0, 0, 0, 9] = f ++ [9] ∧ ((v.ctl 0).frame.getD []).length < f.length ∧ 5 ≤ f.length ∧
      (f.getD 0 0).toNat = f.length ∧ (([4] : List Byte).getD 0 0).toNat < 5 ∧ 96 < (([97] : List Byte).getD 0 0).toNat ∧
      (v.ctl 0).frame.getD [] ++ [0, 0] = f.take 5 ∧ 5 ≤ ((f.take 5).getD 0 0).toNat ∧
      (f.take 5).length < ((f.take 5).getD 0 0).toNat ∧ ((at0 id).part.ctl 0).cycle ≠ .write := by decide +kernel

theorem test_witness_Removal :
    let d := (at0 fun q => { q with cycle := .read true, outbound := [.notice .lost], lost := true }).part
    (d.ctl 0).cycle = .read true ∧ (d.ctl 0).outbound = .notice .lost :: [] ∧
      ((at0 fun q => { q with cycle := .read false }).part.ctl 0).cycle ≠ .read true := by decide +kernel

theorem test_witness_AdmissionTests :
    let q := { CtlPort.reset with attached := true }
    let full := { q with outbound := List.replicate 15 (.notice .lost), reservations := 1 }
    let near := { q with outbound := List.replicate 15 (.notice .lost) }
    CtlPort.reset.attached = false ∧ (Notice.carrier 0 true 9).kind ∉ q.mask ∧ (Notice.carrier 0 true 9).kind ≠ .lost ∧
      (Notice.grant 0).kind ∈ full.mask ∧ 16 ≤ full.outbound.length + full.reservations ∧ full.attached = true ∧
      (Notice.grant 0).kind ∈ near.mask ∧ near.outbound.length + near.reservations < 16 ∧ near.attached = true := by
  decide +kernel

theorem test_witness_AcceptanceChecks :
    let bad : List Byte := [5, 0x01, 7, 0, 0]
    let odd : List Byte := [5, 0x7F, 7, 0, 0]
    (raw bad true up).offers 0 bad ∧ ReqKind.ofByte (frameKind bad) = some .attach ∧ frameCheckOk bad = false ∧
    (raw (fr .attach [0]) true up).offers 0 (fr .attach [0]) ∧ frameCheckOk (fr .attach [0]) = true ∧
      ReqKind.attach.lengthFits (fr .attach [0]) = false ∧
    (raw (fr .groupRead [2]) false up).offers 0 (fr .groupRead [2]) ∧ ReqKind.groupRead.lengthFits (fr .groupRead [2]) = true ∧
      ((raw (fr .groupRead [2]) false up).ctl 0).attached = false ∧ ReqKind.groupRead ≠ .attach ∧
    (raw (fr .attach [0, 0]) false Part.reset).offers 0 (fr .attach [0, 0]) ∧
      ReqKind.attach.lengthFits (fr .attach [0, 0]) = true ∧ Part.reset.loading = true ∧
    (raw odd true up).offers 0 odd ∧ ReqKind.ofByte (frameKind odd) = none := by decide +kernel

theorem test_witness_NoTakeWithoutRoom :
    (up.ctl 0).buffer = [] ∧
    16 ≤ ((at0 fun q => { q with outbound := List.replicate 16 (.notice .lost) }).part.ctl 0).outbound.length ∧
    ((ask .hold [2, 0, 0] up).part.ctl 0).buffer.head? = some (fr .hold [2, 0, 0]) ∧
      ReqKind.ofByte (frameKind (fr .hold [2, 0, 0])) ≠ some .release ∧
      ReqKind.ofByte (frameKind (fr .hold [2, 0, 0])) = some .hold := by decide +kernel

theorem test_witness_Attach :
    ok .attach [2, 0] up ∧ 1 < pn .attach [2, 0] 0 ∧ ok .attach [0, 2] up ∧ 1 < pn .attach [0, 2] 1 ∧ ok .attach [1, 0] up ∧
      AttnMode.dual.code = param (fr .attach [1, 0]) 0 ∧ Polarity.activeHigh.code = param (fr .attach [1, 0]) 1 := by decide +kernel

theorem test_witness_Detach : ok .detach [] (heldBy 0 pending) := by decide +kernel

theorem test_witness_NoticeMask :
    ok .noticeMask [1, 0x89] up ∧ (∀ k : NoticeKind, k ∈ NoticeKind.all → k.code ≠ 0x89) ∧ ok .noticeMask [2, 0x80, 0x80] up ∧
      ¬ ((frameParams (fr .noticeMask [2, 0x80, 0x80])).drop 1).Nodup ∧ ok .noticeMask [1, 0x86] up ∧
      (frameParams (fr .noticeMask [1, 0x86])).drop 1 = [NoticeKind.carrier].map NoticeKind.code := by decide +kernel

theorem test_witness_GroupRead :
    ok .groupRead [12] up ∧ 12 ≤ pn .groupRead [12] 0 ∧ ok .groupRead [11] team ∧ pn .groupRead [11] 0 = (11 : GroupNo).val := by
  decide +kernel

theorem test_witness_LayoutRequests_held :
    (ask .groupAdd [2, 9, 0, 1] (heldBy 3 team)).part.heldAgainst 2 0 ∧
    (ask .groupAdd [3, 1, 0, 0] (heldBy 3 team)).part.groupOf 1 = some 2 ∧
    (ask .groupAdd [3, 1, 0, 0] (heldBy 3 team)).part.heldAgainst 2 0 ∧
    (ask .groupSet [2, 30, 1, 4, 0, 0, 1] (heldBy 3 team)).part.heldAgainst 2 0 ∧
    ¬ (ask .groupAdd [2, 23, 0, 0] team).part.heldAgainst 2 0 ∧
    ¬ (ask .groupAdd [2, 23, 0, 0] (heldBy 0 team)).part.heldAgainst 2 0 := by
  simp only [Part.heldAgainst]; decide +kernel
theorem test_witness_LayoutRequests_add_remove :
    ok .groupAdd [12, 0, 0, 0] up ∧ ok .groupAdd [11, 24, 0, 0] up ∧ ok .groupAdd [2, 9, 0, 1] (heldBy 3 team) ∧
    ok .groupAdd [3, 1, 0, 0] (heldBy 3 team) ∧ ok .groupAdd [2, 23, 0, 0] team ∧
      (team.group 2).revision ≠ param16 (fr .groupAdd [2, 23, 0, 0]) 2 ∧ team.groupOf 23 = none ∧
    ok .groupAdd [2, 5, 0, 1] team ∧ (team.group 2).revision = param16 (fr .groupAdd [2, 5, 0, 1]) 2 ∧ 5 ∈ (team.group 2).members ∧
    ok .groupRemove [12, 0, 0, 0] up ∧ ok .groupRemove [11, 24, 0, 0] up ∧ ok .groupRemove [2, 5, 0, 1] (heldBy 3 team) ∧
    ok .groupRemove [2, 5, 0, 0] team ∧ ok .groupRemove [2, 23, 0, 1] team ∧ 23 ∉ (team.group 2).members := by decide +kernel
theorem test_witness_LayoutRequests_set_disband :
    ok .groupSet [12, 0, 1, 0, 0, 0, 0] up ∧ ok .groupSet [2, 31, 1, 0, 0, 0, 1] team ∧ ok .groupSet [2, 0, 0, 0, 0, 0, 1] team ∧
    ok .groupSet [2, 0, 11, 0, 0, 0, 1] team ∧ ok .groupSet [2, 0, 1, 5, 0, 0, 1] team ∧
    ok .groupSet [2, 30, 10, 4, 255, 0, 1] (heldBy 3 team) ∧ ok .groupSet [2, 30, 10, 4, 255, 0, 0] team ∧
      (team.group 2).revision ≠ param16 (fr .groupSet [2, 30, 10, 4, 255, 0, 0]) 5 ∧
    ok .groupDisband [12, 0, 0] up ∧ ok .groupDisband [2, 0, 1] (heldBy 3 team) ∧ ok .groupDisband [2, 0, 0] team ∧
      (team.group 2).revision ≠ param16 (fr .groupDisband [2, 0, 0]) 1 := by decide +kernel

theorem test_witness_GroupAdd :
    ok .groupAdd [2, 23, 0, 1] talking ∧ (talking.group 2).revision = param16 (fr .groupAdd [2, 23, 0, 1]) 2 ∧
      23 ∉ (talking.group 2).members ∧ talking.groupOf 23 = none ∧
    ok .groupAdd [3, 1, 0, 0] talking ∧ (talking.group 3).revision = param16 (fr .groupAdd [3, 1, 0, 0]) 2 ∧
      1 ∉ (talking.group 3).members ∧ talking.groupOf 1 = some 2 ∧ (talking.group 3).holdHolder = none ∧
      (talking.group 2).holdHolder = none := by decide +kernel

theorem test_witness_GroupRemove_Set_Disband :
    ok .groupRemove [2, 1, 0, 1] talking ∧ 1 ∈ (talking.group 2).members ∧
      (talking.group 2).revision = param16 (fr .groupRemove [2, 1, 0, 1]) 2 ∧
    ok .groupSet [2, 30, 10, 4, 0, 0, 1] talking ∧ (talking.group 2).revision = param16 (fr .groupSet [2, 30, 10, 4, 0, 0, 1]) 5 ∧
      pn .groupSet [2, 30, 10, 4, 0, 0, 1] 1 ≤ 30 ∧ 1 ≤ pn .groupSet [2, 30, 10, 4, 0, 0, 1] 2 ∧
      pn .groupSet [2, 30, 10, 4, 0, 0, 1] 2 ≤ 10 ∧ pn .groupSet [2, 30, 10, 4, 0, 0, 1] 3 ≤ 4 ∧
    ok .groupDisband [2, 0, 1] talking ∧ (talking.group 2).revision = param16 (fr .groupDisband [2, 0, 1]) 1 ∧
      ((team.modGroup 2 fun r => { r with dissolveTimer := some 0 }).group 2).dissolveTimer ≠ none := by decide +kernel

theorem test_witness_Digest :
    ok .groupDigest [12, 1] team ∧ ok .groupDigest [0, 0] team ∧ ok .groupDigest [0, 13] team ∧ ok .groupDigest [11, 12] team ∧
      pn .groupDigest [12, 1] 0 = 12 ∧ pn .groupDigest [0, 13] 1 = 13 ∧ pn .groupDigest [11, 12] 0 ≤ 11 := by decide +kernel

theorem test_witness_Hold :
    ok .hold [12, 0, 0] up ∧ ok .hold [2, 0, 0] (heldBy 0 team) ∧ ((heldBy 0 team).group 2).holdHolder = some 0 ∧
    ok .hold [2, 0, 0] (heldBy 3 team) ∧ ((heldBy 3 team).group 2).holdHolder = some 3 ∧
    ok .hold [4, 0, 0] (heldBy 0 team) ∧ ((heldBy 0 team).group 4).holdHolder = none ∧
    ok .hold [2, 0, 0] team ∧ (team.group 2).revision ≠ param16 (fr .hold [2, 0, 0]) 1 ∧
    ok .hold [2, 0, 1] team ∧ (team.group 2).revision = param16 (fr .hold [2, 0, 1]) 1 ∧
      (∀ h, (team.group h).holdHolder ≠ some 0) := by decide +kernel

theorem test_witness_Release :
    ok .release [12] up ∧ ok .release [2] (heldBy 3 team) ∧ ok .release [2] (heldBy 0 team) ∧
      ((heldBy 0 team).group 2).dissolveTimer = none ∧ ((heldBy 0 team).group 2).holdTimer ≠ none := by decide +kernel

theorem test_witness_PortRead : ok .portRead [24] up ∧ ok .portRead [23] team ∧ pn .portRead [23] 0 = (23 : PortNo).val := by
  decide +kernel

/-- PORT-SET of port `p` with its default settings but for a restart timeout. -/
def setting (p : PortNo) : List Byte :=
  BitVec.ofNat 8 p.val :: asBytes { PortSettings.default p with restartTimeout := 3 }.numbers
theorem test_witness_PortSet :
    ok .portSet (24 :: (setting 0).drop 1) up ∧ ok .portSet (setting 23) up ∧ ok .portSet (setting 1) talking ∧
      { PortSettings.default 1 with restartTimeout := 3 }.legal = true ∧
      asBytes { PortSettings.default 1 with restartTimeout := 3 }.numbers = (frameParams (fr .portSet (setting 1))).drop 1 ∧
      (up.port 23).settings.owner ≠ 0 ∧ (talking.port 1).settings.owner = 0 ∧
      (PortSettings.default 1).owner = (talking.port 1).settings.owner ∧ (talking.port 1).carrier = true ∧
      ok .portSet (setting 0) talking ∧ (talking.port 0).carrier = false := by decide +kernel

/-- Port 0 out of service in COOLDOWN. -/
def cooling : Part := team.modPort 0 fun r => { r with state := .cooldown, cooldownTimer := some 40000 }
theorem test_witness_PortClear :
    ok .portClear [24] up ∧ ok .portClear [23] up ∧ ok .portClear [0] up ∧ (up.port 0).state ≠ .cooldown ∧
      (up.port 0).state ≠ .latched ∧ ok .portClear [0] cooling ∧ (cooling.port 0).state = .cooldown ∧
      (cooling.port 0).settings.owner = 0 ∧ (cooling.port 0).cooldownTimer ≠ none := by decide +kernel

theorem test_witness_PortGiveClaim :
    ok .portGive [24, 0] up ∧ ok .portGive [0, 6] up ∧ ok .portGive [23, 5] up ∧ ok .portGive [0, 5] up ∧
      pn .portGive [0, 5] 1 = (5 : CtlNo).val ∧ ok .portClaim [24] up ∧ ok .portClaim [0] up ∧
      (((ask .portClaim [0] up).part.ctl 0).attached = true) ∧ ok .portClaim [23] up ∧
      (((ask .portClaim [23] up).part.ctl 5).attached = false) := by decide +kernel

/-- Port 0 OFFLINE, its link DOWN. -/
def offline : Part := team.modPort 0 fun r => { r with linkUp := false, state := .offline }
theorem test_witness_Emergency :
    let e := (due 0 team).modPort 0 fun r => { r with emergency := true }
    ((due 0 up).port 0).emergency = false ∧ 160 ≤ ((due 0 up).port 0).emergencyCount ∧ (e.port 0).emergency = true ∧
      160 ≤ (e.port 0).emergencyCount ∧ (up.port 0).emergencyCount < 160 := by decide +kernel
theorem test_witness_LinkLoss :
    (∀ p, ((due p talking).port p).linkUp = true ∧ 160 ≤ ((due p talking).port p).linkCount ∧
      ((due p talking).port p).state ≠ .offline ∧ (due p talking).loading = false) ∧
    ((due 1 talking).port 1).state = .source ∧ ((due 0 talking).port 0).state = .keyed ∧ ((due 7 talking).port 7).state = .idle ∧
    160 ≤ ((due 0 cooling).port 0).linkCount ∧ ((due 0 cooling).port 0).linkUp = true ∧
      ((due 0 cooling).port 0).state = .cooldown ∧ (offline.port 0).linkUp = false ∧ (up.port 0).linkCount < 160 ∧
      Part.reset.loading = true := by decide +kernel
theorem test_witness_LinkReturn :
    let d := due 0 offline
    let e := due 0 (offline.modPort 0 fun r => { r with state := .latched })
    (d.port 0).linkUp = false ∧ 100 ≤ (d.port 0).linkCount ∧ d.loading = false ∧ (d.port 0).state = .offline ∧
      (e.port 0).linkUp = false ∧ 100 ≤ (e.port 0).linkCount ∧ e.loading = false ∧ (e.port 0).state = .latched ∧
      (up.port 0).linkUp = true ∧ (offline.port 0).linkCount < 100 := by decide +kernel
theorem test_witness_PortEvents :
    ((offline.modPort 0 fun r => { r with restartPhase := .waiting }).port 0).restartPhase = .waiting ∧
    ((offline.modPort 0 fun r => { r with restartPhase := .pulsing }).port 0).restartPhase = .pulsing ∧
    ((team.modPort 0 fun r => { r with guard := some 0 }).port 0).guard ≠ none := by decide +kernel

theorem test_witness_Carrier :
    let still := due 1 (talking.modPort 1 fun r => { r with carrier := false })
    (talking.port 0).Suppressed ∧ (talking.port 1).carrier = true ∧ ¬ (team.port 5).RunEnds ∧ (team.port 5).carrier = false ∧
    ((due 1 talking).port 1).carrier = true ∧ ((due 1 talking).port 1).RunEnds ∧
    ¬ ((due 5 team).port 5).Suppressed ∧ ((due 5 team).port 5).carrier = false ∧ ((due 5 team).port 5).RunEnds ∧
      (due 5 team).groupOf 5 = some 2 ∧ ((due 5 team).port 5).state = .idle ∧
    ¬ ((due 6 team).port 6).Suppressed ∧ ((due 6 team).port 6).carrier = false ∧ ((due 6 team).port 6).RunEnds ∧
      (due 6 team).groupOf 6 = none ∧
    ¬ (still.port 1).Suppressed ∧ (still.port 1).carrier = false ∧ (still.port 1).RunEnds ∧ (still.port 1).state = .source := by
  decide +kernel

theorem test_witness_Frames :
    up.NothingDue ∧ ¬ (due 0 up).NothingDue ∧ up.blockFrames < 80 ∧ 80 ≤ { up with blockFrames := 80 : Part }.blockFrames := by
  unfold Part.NothingDue; decide +kernel

theorem test_witness_Limits :
    let d := talking.modPort 0 fun r => { r with transmitTimer := some 0 }
    let e := talking.modPort 1 fun r => { r with carrierTimer := some 0 }
    (d.port 0).transmitTimer ≠ none ∧ (d.port 0).state = .keyed ∧ (e.port 1).carrierTimer ≠ none ∧ (e.port 1).state = .source := by
  decide +kernel

theorem test_witness_ConsoleSet :
    ok .consoleSet [2, 0] up ∧ 1 < pn .consoleSet [2, 0] 0 ∧ ok .consoleSet [0, 1, 12] up ∧ ok .consoleSet [0, 2, 3, 3] up ∧
      ¬ ((frameParams (fr .consoleSet [0, 2, 3, 3])).drop 2).Nodup ∧ ok .consoleSet [1, 2, 11, 0] up ∧
      ((frameParams (fr .consoleSet [1, 2, 11, 0])).drop 2) = [11, 0] := by decide +kernel

/-- Group 2 with port 1 talking and console 0 waiting. -/
def waiting : Part :=
  (talking.modFloor 2 fun f => { f with waiting := [⟨.console 0, .high, false⟩] }).modConsole 0 fun r =>
    { r with involvement := .waiter 2 }

theorem test_witness_TalkRequest_refused :
    ok .talkRequest [12, 0] up ∧ ok .talkRequest [2, 2] team ∧ ok .talkRequest [11, 1] team ∧ (team.group 11).members = [] ∧
    ok .talkRequest [2, 1] waiting ∧ (waiting.console 0).involvement = .waiter 2 ∧ (waiting.group 2).members ≠ [] ∧
    ok .talkRequest [2, 0] pending ∧ (pending.console 0).involvement = .holder 2 ∧ (pending.floor 2).state = .pending ∧
    (let d := waiting.modGroup 4 fun r => { r with members := [9] }
     ok .talkRequest [4, 0] d ∧ (d.group 4).members ≠ [] ∧ (2 : GroupNo) ≠ 4 ∧ (d.console 0).involvement = .waiter 2) := by
  decide +kernel

theorem test_witness_TalkRequest_passes :
    ok .talkRequest [2, 0] team ∧ (team.console 0).involvement = .none ∧ (team.floor 2).state = .free ∧
    ok .talkRequest [2, 1] parked ∧ (parked.console 0).involvement = .holder 2 ∧ (parked.floor 2).state = .hang ∧
      (parked.floor 2).holder = some (.console 0) ∧
    ok .talkRequest [2, 1] talking ∧ (talking.console 0).involvement = .none ∧ (talking.floor 2).state ≠ .free ∧
      (talking.floor 2).state ≠ .hang := by decide +kernel

theorem test_witness_TalkStartEndCancel :
    let on := pending.modFloor 2 fun f => { f with state := .talk, windowTimer := none }
    ok .talkStart [] pending ∧ ok .talkStart [] team ∧ ok .talkEnd [] on ∧ (on.console 0).involvement = .holder 2 ∧
      (on.floor 2).state = .talk ∧ ok .talkEnd [] pending ∧ ok .talkCancel [] waiting ∧ ok .talkCancel [] pending ∧
      ok .talkCancel [] team ∧ ok .talkCancel [] on := by decide +kernel

theorem test_witness_FloorClear :
    ok .floorClear [12] up ∧ ok .floorClear [2] (heldBy 3 talking) ∧ ok .floorClear [2] team ∧ ok .floorClear [2] talking ∧
      (talking.floor 2).state ≠ .free ∧ (talking.group 2).holdHolder = none ∧ (team.floor 2).state = .free := by decide +kernel

theorem test_witness_FloorTimers :
    (parked.floor 2).hangTimer ≠ none ∧ (parked.floor 2).state = .hang ∧ (pending.floor 2).windowTimer ≠ none ∧
      (pending.floor 2).state = .pending ∧
    (let d := talking.modFloor 2 fun f => { f with preemptTimer := some 0, waiting := [⟨.console 4, .high, true⟩] }
     (d.floor 2).preemptTimer ≠ none ∧ (d.floor 2).state = .talk ∧ (d.floor 2).mark = false) := by decide +kernel

theorem test_witness_GrantDecision :
    let h : Entry := ⟨.port 1, .high, false⟩
    let l : Entry := ⟨.port 2, .low, false⟩
    let em : Entry := ⟨.port 3, .low, true⟩
    [h, em] = [h] ++ em :: [] ∧ em.emergency = true ∧ ¬ h.emergency = true ∧
    [h, l] = [h] ++ l :: [] ∧ l.srcClass = .low ∧ ¬ h.srcClass = .low ∧ ([h, l].filter fun e => e.srcClass = .high).length = 1 ∧
    (∀ x ∈ [h, l], x.emergency = false) ∧ ([l].filter fun e => e.srcClass = .high).length = 0 ∧
    (∀ x ∈ [h], x.srcClass = .high) := by decide +kernel

theorem test_witness_StoreStart :
    ok .presetStore [16, 1, 2] team ∧ ok .presetStore [15, 1, 12] team ∧ ok .presetStore [15, 0] team ∧
      ok .presetStore [15, 2, 2, 2] team ∧ ok .presetStore [15, 2, 2, 11] team ∧
      (frameParams (fr .presetStore [15, 2, 2, 11])).drop 2 = [2, 11] ∧ team.storeOp = none ∧
    (let d := busy (.presetErase 3) team
     d.storeOp ≠ none ∧ ok .presetStore [15, 1, 2] d ∧ ok .portsStore [] d ∧ ok .presetErase [15] d ∧ ok .presetRead [15] d ∧
       ok .presetRecall [15] d) ∧
    ok .portsStore [] team ∧ ok .presetErase [16] team ∧ ok .presetErase [15] team ∧ ok .presetRead [16] team ∧
      ok .presetRead [15] team ∧ ok .presetRecall [16] team ∧ ok .presetRecall [15] team := by decide +kernel

theorem test_witness_StoreCompletes :
    (∀ k : StoreKind, ∃ op, (busy k team).storeOp = some op ∧ op.kind = k) ∧
    tget (busy (.presetRead 0) (withPreset team)).slots 0 = some preset ∧ tget (busy (.presetRead 15) team).slots 15 = none :=
  ⟨fun _ => ⟨_, rfl, rfl⟩, by decide +kernel, by decide +kernel⟩

theorem test_witness_Recall :
    let d := busy (.presetRecall 0) (withPreset talking)
    let e := busy (.presetRecall 0) (withPreset (heldBy 3 talking))
    tget d.slots 0 = some preset ∧ tget e.slots 0 = some preset ∧ tget (busy (.presetRecall 1) talking).slots 1 = none ∧
      (∀ g, (d.group g).holdHolder = none) ∧ (e.group 2).holdHolder = some 3 ∧ (preset.map fun x => x.group).Nodup ∧
      (preset.flatMap fun x => x.members).Nodup ∧ (∀ x ∈ preset, x.settings.legal = true) := by decide +kernel
theorem test_witness_Recall_losing :
    let d := busy (.presetRecall 0) (withPreset (talking.modGroup 7 fun r => { r with members := [3, 9] }))
    tget d.slots 0 = some preset ∧ (∀ g, (d.group g).holdHolder = none) ∧ d.losesTo preset 7 := by
  unfold Part.losesTo Part.namedBy; decide +kernel

theorem test_witness_RequestBytes :
    (List.replicate 91 (0 : Byte)).length ≤ 91 ∧ 2 ≤ ([0, 0] : List Byte).length ∧ (requestFrame .consoleSet 7 [0, 1, 2]).length = 7 + 1 ∧ (PortSettings.default 23).legal = true ∧ GroupSettings.default.legal = true := by
  decide +kernel

/-! A state with a talk in it meets every invariant, and a step from it answers a next state. -/

theorem test_talking_layout : talking.LayoutSound := by
  refine ⟨by decide +kernel, by decide +kernel, ?_, ?_, ?_, ?_⟩
  · intro i pre h
    have : ∀ i, tget talking.slots i = none := by decide +kernel
    rw [this i] at h; cases h
  · intro op slot pre h; cases h
  · intro op slot h; cases h
  · intro h; cases h

theorem test_talking_queues : talking.QueuesSound := by
  have hs : talking.storeOp = none := rfl
  refine ⟨by simp [hs], ?_⟩
  simp only [hs, reduceCtorEq, false_and, exists_false, false_implies, implies_true, true_implies, true_and]
  decide +kernel

theorem test_talking_ports : talking.PortsSound := by
  refine ⟨by decide +kernel, by decide +kernel, ?_, ?_⟩
  · intro es p h; cases h
  · intro op es h; cases h

theorem test_talking_floors : talking.FloorsSound := by
  refine ⟨?_, by decide +kernel⟩
  intro g
  by_cases h : g = 2
  · subst h
    have e : talking.floor 2 = { FloorRec.reset with state := .talk, holder := some (.port 1) } := by decide +kernel
    rw [e]
    exact ⟨by simp [FloorRec.Sound, FloorRec.reset], by decide +kernel⟩
  · have e : ∀ g, g ≠ 2 → talking.floor g = FloorRec.reset := by decide +kernel
    rw [e g h]
    exact ⟨by simp [FloorRec.Sound, FloorRec.reset], fun _ => rfl⟩

theorem test_talking_holds : talking.HoldsSound := by
  refine ⟨by decide +kernel, by decide +kernel, by decide +kernel⟩

theorem test_talking_follow : talking.PortsFollow := by
  refine ⟨by decide +kernel, by decide +kernel, by decide +kernel, by decide +kernel, by decide +kernel, by decide +kernel⟩

theorem test_talking_steps : ∃ s', step { part := talking, pending := [.portResetAsserted 0] } = .next s' := ⟨_, rfl⟩

end Sys2Proof.Tests
end

section
/-!
PROOFS. Radio port requests: PORT-READ (R20). The owner block's two replies are said once each; the take and the response around
them are those of every accepted request (R135 to R137).
-/

namespace Sys2Proof.Machine

/-- PORT_READ is the take of a PORT-READ request (R135). -/
theorem exec_portRead (c : CtlNo) (s : State) : exec (.portRead c) s = s.run (Part.serve .portRead portReadRequest c) := rfl

/-- The record that a read reports does not depend on the frame that asks for it. -/
@[simp] theorem takeFrame_portRecord (c : CtlNo) (d : Part) (p : PortNo) : (d.takeFrame c).portRecord p = d.portRecord p := rfl

/-- A number outside the ports is refused, and the owner block leaves the part as it was handed it. -/
theorem portReadRequest_badValue (c : CtlNo) (tag : Byte) (ps : List Byte) (d : Part) (h : 24 ≤ (arg ps 0).toNat) :
    portReadRequest c tag ps d = reply .badValue d := by
  unfold portReadRequest
  rw [numOf_none h]

/-- A port's number is answered with the port and its record, and the owner block leaves the part as it was handed it. -/
theorem portReadRequest_ok (c : CtlNo) (tag : Byte) (ps : List Byte) (d : Part) (p : PortNo) (h : (arg ps 0).toNat = p.val) :
    portReadRequest c tag ps d = replyOk (asBytes (p.val :: d.portRecord p)) d := by
  have hbytes : portByte p :: d.portRecordBytes p = asBytes (p.val :: d.portRecord p) := by rw [record_bytes]; rfl
  unfold portReadRequest
  rw [numOf_some h]
  exact congrArg (replyOk · d) hbytes

/-- Settles O27: an accepted read reaches its owner block, which reports a record and leaves the part with the frame taken; the
response closes the reservation of that take. -/
theorem portReadReturnsTheRecord : Obligations.PortReadReturnsTheRecord := by
  intro c s f hacc
  have hserve := serve_of_accepts portReadRequest hacc
  constructor
  · intro hbad
    refine ex (exec_portRead c s) ?_
    rw [hserve, portReadRequest_badValue _ _ _ _ hbad, answer_reply, respond_takeFrame]
  · intro p hp
    refine ex (exec_portRead c s) ?_
    rw [hserve, portReadRequest_ok _ _ _ _ p hp, answer_replyOk, takeFrame_portRecord, respond_takeFrame]

end Sys2Proof.Machine
end

section
/-!
PROOFS. Layout requests that change nothing of the layout: GROUP-READ (R44) and GROUP-DIGEST (R54, R55). Each owner block's two
replies are said once; the CRC is said as R55 gives it, one bit and one byte at a time.
-/

namespace Sys2Proof.Machine

/-! GROUP-READ. -/

/-- GROUP_READ is the take of a GROUP-READ request (R135). -/
theorem exec_groupRead (c : CtlNo) (s : State) : exec (.groupRead c) s = s.run (Part.serve .groupRead groupReadRequest c) := rfl

/-- The renewal of a hold restarts the hold timer, never the dissolve timer. -/
@[simp] theorem renewed_dissolveTimer (d : Part) (c : CtlNo) (g h : GroupNo) :
    ((d.renewed c g).group h).dissolveTimer = (d.group h).dissolveTimer := by
  unfold Part.renewed
  rw [modGroup_group]
  split
  · next e => rw [e]
  · rfl

/-- A snapshot carries the holder of the hold and not its timer (R163), so the renewal by the read itself does not show in it. -/
@[simp] theorem renewed_snapshot (d : Part) (c : CtlNo) (g h : GroupNo) : (d.renewed c g).snapshot h = d.snapshot h := by
  unfold Part.snapshot
  dsimp only
  rw [renewed_members, renewed_revision, renewed_settings, renewed_holder, renewed_dissolveTimer, renewed_floor]

/-- The snapshot that a read reports does not depend on the frame that asks for it. -/
@[simp] theorem takeFrame_snapshot (c : CtlNo) (d : Part) (g : GroupNo) : (d.takeFrame c).snapshot g = d.snapshot g := rfl

/-- A number outside the groups names no hold to renew and is refused. -/
theorem groupReadRequest_badValue (c : CtlNo) (tag : Byte) (ps : List Byte) (d : Part) (h : 12 ≤ (arg ps 0).toNat) :
    groupReadRequest c tag ps d = reply .badValue d := by
  unfold groupReadRequest
  rw [numOf_none h, touchNamed_none h]

/-- A group's number renews the hold where the requester has it, and is answered with the snapshot. -/
theorem groupReadRequest_ok (c : CtlNo) (tag : Byte) (ps : List Byte) (d : Part) (g : GroupNo) (h : (arg ps 0).toNat = g.val) :
    groupReadRequest c tag ps d = replyOk (asBytes (d.snapshot g)) (d.renewed c g) := by
  unfold groupReadRequest
  rw [numOf_some h, touchNamed_some h]
  dsimp only
  rw [snapshot_eq, renewed_snapshot]

/-- Settles O17: an accepted read reaches its owner block, which renews the hold of the asking holder and reports the group; the
renewal commutes with the take, whose reservation the response closes. -/
theorem groupReadReturnsTheSnapshot : Obligations.GroupReadReturnsTheSnapshot := by
  intro c s f hacc
  have hserve := serve_of_accepts groupReadRequest hacc
  constructor
  · intro hbad
    refine ex (exec_groupRead c s) ?_
    rw [hserve, groupReadRequest_badValue _ _ _ _ hbad, answer_reply, respond_takeFrame]
  · intro g hg
    refine ex (exec_groupRead c s) ?_
    rw [hserve, groupReadRequest_ok _ _ _ _ g hg, answer_replyOk, takeFrame_snapshot, renewed_takeFrame, respond_takeFrame]

/-! The CRC (R55). -/

/-- One bit: the register moves up, and the generator is subtracted where the bit that left it differs from the bit that comes. -/
theorem crcBit_eq (r : Word) (b : Bool) : crcBit r b = (r <<< 1) ^^^ (if r.msb = b then 0 else 0x1021) := by
  unfold crcBit
  by_cases h : r.msb = b <;> simp [h]

/-- One byte: its bits from the most significant one. -/
theorem crcByte_eq (r : Word) (b : Byte) :
    crcByte r b =
      (List.range 8).foldl (fun (r : Word) i => (r <<< 1) ^^^ (if r.msb = b.getLsbD (7 - i) then 0 else 0x1021)) r := by
  have hdown : [7, 6, 5, 4, 3, 2, 1, 0] = (List.range 8).map (7 - ·) := rfl
  unfold crcByte
  rw [hdown, List.foldl_map]
  simp only [crcBit_eq]

/-- The CRC over one more byte. -/
theorem crc_concat (bytes : List Byte) (b : Byte) : crc (bytes ++ [b]) = crcByte (crc bytes) b := by
  simp only [crc, List.foldl_append, List.foldl_cons, List.foldl_nil]

/-! GROUP-DIGEST. -/

/-- GROUP_DIGEST is the take of a GROUP-DIGEST request (R135). -/
theorem exec_groupDigest (c : CtlNo) (s : State) :
    exec (.groupDigest c) s = s.run (Part.serve .groupDigest groupDigestRequest c) := rfl

theorem asBytes_append (ms ns : List Nat) : asBytes (ms ++ ns) = asBytes ms ++ asBytes ns := List.map_append

theorem asBytes_flatMap {α : Type} (l : List α) (f : α → List Nat) : asBytes (l.flatMap f) = l.flatMap fun a => asBytes (f a) :=
  List.map_flatMap

/-- A list of ports as the bytes of their numbers. -/
theorem map_portByte (ps : List PortNo) : ps.map portByte = asBytes (ps.map Fin.val) := by
  simp [asBytes, portByte, byteOf]

/-- The bytes of one group in the digest are those of its serialization. -/
theorem digestBytes_eq (d : Part) (g : GroupNo) : d.digestBytes g = asBytes ((d.group g).serial g) := by
  simp only [Part.digestBytes, GroupRec.serial, wordBytes_two, map_portByte, asBytes_append, List.append_assoc]
  rfl

/-- The digest is the CRC over the serialized groups of its run. -/
theorem digest_eq (d : Part) (first count : Nat) :
    d.digest first count =
      crc (asBytes (((List.finRange 12).filter fun g => decide (first ≤ g.val ∧ g.val < first + count)).flatMap
        fun g => (d.group g).serial g)) := by
  have hbytes : d.digestBytes = fun g => asBytes ((d.group g).serial g) := funext (digestBytes_eq d)
  simp only [Part.digest, hbytes, asBytes_flatMap, Bool.decide_and]

/-- The digest does not depend on the frame that asks for it. -/
@[simp] theorem takeFrame_digest (c : CtlNo) (d : Part) (first count : Nat) :
    (d.takeFrame c).digest first count = d.digest first count := rfl

/-- The count used stops at the last group (R54). -/
theorem min_groups_left (first count : Nat) (h : first ≤ 12) :
    min count (12 - first) = if first + count > 12 then 12 - first else count := by
  split <;> omega

/-- A first group or a count that is out of range is refused, and the owner block leaves the part as it was handed it. -/
theorem groupDigestRequest_badValue (c : CtlNo) (tag : Byte) (ps : List Byte) (d : Part)
    (h : 11 < (arg ps 0).toNat ∨ (arg ps 1).toNat = 0 ∨ 12 < (arg ps 1).toNat) :
    groupDigestRequest c tag ps d = reply .badValue d := by
  unfold groupDigestRequest
  exact if_pos h

/-- A run of groups is answered with its first group, the count used and the digest, high byte first. -/
theorem groupDigestRequest_ok (c : CtlNo) (tag : Byte) (ps : List Byte) (d : Part) (hfirst : (arg ps 0).toNat ≤ 11)
    (hpos : 1 ≤ (arg ps 1).toNat) (hcount : (arg ps 1).toNat ≤ 12) :
    let first := (arg ps 0).toNat
    let used := min (arg ps 1).toNat (12 - first)
    groupDigestRequest c tag ps d = replyOk (asBytes ([first, used] ++ twoBytes (d.digest first used).toNat)) d := by
  intro first used
  have hlegal : ¬ (first ≥ 12 ∨ (arg ps 1).toNat = 0 ∨ (arg ps 1).toNat > 12) := by omega
  unfold groupDigestRequest
  refine (if_neg hlegal).trans ?_
  rw [asBytes_append, ← wordBytes_two]
  rfl

/-- Settles O23: the CRC bit by bit from its own lemmas; an accepted digest request reaches its owner block, which reports the
digest of the layout and leaves the part with the frame taken. -/
theorem digestOfTheLayout : Obligations.DigestOfTheLayout := by
  refine ⟨rfl, fun bytes b => ?_, by decide +kernel, fun c s f hacc => ?_⟩
  · rw [crc_concat, crcByte_eq]
  intro first count used run digest
  have hserve := serve_of_accepts groupDigestRequest hacc
  constructor
  · intro hbad
    refine ex (exec_groupDigest c s) ?_
    rw [hserve, groupDigestRequest_badValue _ _ _ _ hbad, answer_reply, respond_takeFrame]
  · intro hfirst hpos hcount
    have hused : min count (12 - first) = used := min_groups_left first count (by omega)
    have hdigest : s.part.digest first used = digest := digest_eq s.part first used
    refine ex (exec_groupDigest c s) ?_
    rw [hserve, groupDigestRequest_ok _ _ _ _ hfirst hpos hcount, answer_replyOk, takeFrame_digest, respond_takeFrame]
    simp only [← param_eq]
    rw [hused, hdigest]

end Sys2Proof.Machine
end

section
/-!
PROOFS. Holds: HOLD (R57 to R59), RELEASE (R60) and the expiry of a hold timer (R65). The start and the end of a hold are each said
once as one change of the group's record; then each reply of the two owner blocks is said once.
-/

namespace Sys2Proof.Machine

/-! Changes of one group record. -/

/-- A change of a group reads nothing but the record it changes. -/
theorem modGroup_congr {d : Part} {g : GroupNo} {f f' : GroupRec → GroupRec} (h : f (d.group g) = f' (d.group g)) :
    d.modGroup g f = d.modGroup g f' := by
  apply Part.ext_views <;> intros
  case hg x => rw [modGroup_group, modGroup_group, h]
  all_goals rfl

/-- A change that leaves the group's record as it is leaves the part as it is. -/
theorem modGroup_self {d : Part} {g : GroupNo} {f : GroupRec → GroupRec} (h : f (d.group g) = d.group g) :
    d.modGroup g f = d := by
  apply Part.ext_views <;> intros
  case hg x =>
    rw [modGroup_group]
    split
    · next hx => rw [hx, h]
    · rfl
  all_goals rfl

/-- After a change of the group, the dissolve timer follows its condition on the changed record (R50). -/
theorem modGroup_refreshDissolve (d : Part) (g : GroupNo) (f : GroupRec → GroupRec) :
    (d.modGroup g f).refreshDissolve g = d.modGroup g fun r => (f r).timed (decide ((d.floor g).state = .free)) := by
  apply Part.ext_views <;> intros
  case hg x =>
    rw [refreshDissolve_group, modGroup_group_self, modGroup_group, modGroup_group]
    split <;> rfl
  all_goals rfl

/-! The hold of one group: renewed, begun and ended. -/

/-- A request of the holder restarts the hold timer (R64). -/
theorem renewed_of_holder {d : Part} {c : CtlNo} {g : GroupNo} (h : (d.group g).holdHolder = some c) :
    d.renewed c g = d.modGroup g fun r => { r with holdTimer := some 240000 } :=
  modGroup_congr (by simp only [h, if_true])

/-- A request of any other controller leaves the hold timer alone (R64). -/
theorem renewed_of_not_holder {d : Part} {c : CtlNo} {g : GroupNo} (h : (d.group g).holdHolder ≠ some c) :
    d.renewed c g = d :=
  modGroup_self (by simp only [h, if_false])

/-- The part with a hold of controller `c` on group `g`: the hold timer at its full time, the dissolve timer stopped (R50, R58). -/
def Part.holding (d : Part) (c : CtlNo) (g : GroupNo) : Part :=
  d.modGroup g fun r => { r with holdHolder := some c, holdTimer := some 240000, dissolveTimer := none }

/-- The part with no hold on group `g`, and its dissolve timer at its full time where its condition holds, as the end of the hold
leaves it when the timer was stopped before (R50, R60). -/
def Part.unheld (d : Part) (g : GroupNo) : Part :=
  d.modGroup g fun r =>
    { r with
      holdHolder := none
      holdTimer := none
      dissolveTimer :=
        if r.members ≠ [] ∧ (d.floor g).state = .free ∧ r.settings.dissolve ≠ 0
        then some (480000 * r.settings.dissolve) else none }

/-- A held group fails the dissolve condition (R50), so the hold begins with the dissolve timer stopped. -/
theorem beginHold_holding (d : Part) (c : CtlNo) (g : GroupNo) : d.beginHold c g = d.holding c g := by
  unfold Part.beginHold Part.holding
  rw [modGroup_refreshDissolve]
  refine modGroup_congr ?_
  simp [GroupRec.timed, startTimer, Config.holdTime, Config.sec]

/-- The end of a hold makes the dissolve condition anew, so a timer that was stopped starts from its full time (R50, R60). -/
theorem endHold_unheld {d : Part} {g : GroupNo} (h : (d.group g).dissolveTimer = none) : d.endHold g = d.unheld g := by
  unfold Part.endHold Part.unheld
  rw [modGroup_refreshDissolve]
  refine modGroup_congr ?_
  simp only [GroupRec.timed, h, Option.getD_none, decide_eq_true_eq, true_and]
  simp only [and_left_comm]

/-- The search over the groups finds a hold of the controller exactly where there is one (R56). -/
theorem heldBy_isSome (d : Part) (c : CtlNo) : (d.heldBy c).isSome = true ↔ ∃ h, (d.group h).holdHolder = some c := by
  simp [Part.heldBy, List.find?_isSome]

/-! Replies. -/

/-- An accepted request whose owner block replies at once, with the part it leaves under the taken frame: the response closes the
reservation of the take (R135, R137). -/
theorem answered_of_reply {i : Instr} {k : ReqKind} {h : Handler} {c : CtlNo} {s : State} {f : List Byte} {t : Part} {st : Status}
    {data : List Byte} (hexec : exec i s = s.run (Part.serve k h c)) (hacc : s.part.accepts c k f)
    (hreply : h c (frameTag f) (frameParams f) (s.part.takeFrame c) = { part := t.takeFrame c, answer := some (st, data) }) :
    exec i s = .next { s with part := t.answered c f st data } := by
  refine ex hexec ?_
  rw [serve_of_accepts h hacc, hreply, answer_some, respond_takeFrame]

/-! HOLD. -/

/-- HOLD is the take of a HOLD request (R135). -/
theorem exec_hold (c : CtlNo) (s : State) : exec (.hold c) s = s.run (Part.serve .hold holdRequest c) := rfl

section hold
variable {c : CtlNo} {tag : Byte} {ps : List Byte} {d : Part} {g : GroupNo}

theorem holdRequest_badValue (h : 12 ≤ (arg ps 0).toNat) : holdRequest c tag ps d = reply .badValue d := by
  unfold holdRequest
  rw [numOf_none h, touchNamed_none h]

/-- The holder's own request renews the hold and reports the group (R58, R64); the renewal does not show in the snapshot. -/
theorem holdRequest_renews (hg : (arg ps 0).toNat = g.val) (hold : (d.group g).holdHolder = some c) :
    holdRequest c tag ps d =
      replyOk (asBytes (d.snapshot g)) (d.modGroup g fun r => { r with holdTimer := some 240000 }) := by
  unfold holdRequest
  rw [numOf_some hg, touchNamed_some hg]
  simp only [renewed_holder, hold, if_true]
  rw [snapshot_eq, renewed_snapshot, renewed_of_holder hold]

/-- A hold of another controller is answered with its number, and its timer runs on. -/
theorem holdRequest_held {k : CtlNo} (hg : (arg ps 0).toNat = g.val) (hold : (d.group g).holdHolder = some k) (hk : k ≠ c) :
    holdRequest c tag ps d = { part := d, answer := some (.held, asBytes [k.val]) } := by
  have hother : (d.group g).holdHolder ≠ some c := by simpa [hold] using hk
  unfold holdRequest
  rw [numOf_some hg, touchNamed_some hg, renewed_of_not_holder hother]
  simp only [hold, hk, if_false]
  rfl

/-- A group that nobody holds is left to the checks of the requester's other holds and of the revision (R57). -/
theorem holdRequest_unheld (hg : (arg ps 0).toNat = g.val) (hold : (d.group g).holdHolder = none) :
    holdRequest c tag ps d =
      if (d.heldBy c).isSome then reply .state d
      else if (d.group g).revision ≠ wordOf (arg ps 1) (arg ps 2) then replyStale g d
      else replyOk (asBytes ((d.holding c g).snapshot g)) (d.holding c g) := by
  have hother : (d.group g).holdHolder ≠ some c := by simp [hold]
  unfold holdRequest
  rw [numOf_some hg, touchNamed_some hg, renewed_of_not_holder hother]
  simp only [hold, beginHold_holding, snapshot_eq]

/-- The requester holds another group (R57). -/
theorem holdRequest_state (hg : (arg ps 0).toNat = g.val) (hold : (d.group g).holdHolder = none)
    (hmine : ∃ h, (d.group h).holdHolder = some c) : holdRequest c tag ps d = reply .state d := by
  rw [holdRequest_unheld hg hold, if_pos ((heldBy_isSome d c).2 hmine)]

/-- The requester saw another revision (R57). -/
theorem holdRequest_stale (hg : (arg ps 0).toNat = g.val) (hold : (d.group g).holdHolder = none)
    (hnone : ∀ h, (d.group h).holdHolder ≠ some c) (hrev : (d.group g).revision ≠ wordOf (arg ps 1) (arg ps 2)) :
    holdRequest c tag ps d =
      { part := d, answer := some (.stale, asBytes (twoBytes (d.group g).revision.toNat)) } := by
  rw [holdRequest_unheld hg hold, if_neg (mt (heldBy_isSome d c).1 (not_exists.2 hnone)), if_pos hrev, replyStale, wordBytes_two]

/-- All checks pass, and the hold begins (R58, R59). -/
theorem holdRequest_takes (hg : (arg ps 0).toNat = g.val) (hold : (d.group g).holdHolder = none)
    (hnone : ∀ h, (d.group h).holdHolder ≠ some c) (hrev : (d.group g).revision = wordOf (arg ps 1) (arg ps 2)) :
    holdRequest c tag ps d = replyOk (asBytes ((d.holding c g).snapshot g)) (d.holding c g) := by
  rw [holdRequest_unheld hg hold, if_neg (mt (heldBy_isSome d c).1 (not_exists.2 hnone)), if_neg (not_not_intro hrev)]

end hold

/-- Settles O24: the owner block's checks are told apart by the holder of the group, then by the requester's other holds, then by
the revision. -/
theorem holdIsTakenOrRenewed : Obligations.HoldIsTakenOrRenewed := by
  intro c s f hacc
  refine ⟨fun hbad => ?badValue, fun g hg => ⟨fun hold => ?renewed, fun k hold hk => ?held, fun hold hmine => ?state,
    fun hold hnone hrev => ?stale, fun hold hnone hrev => ?taken⟩⟩
  case badValue => exact answered_of_reply (exec_hold c s) hacc (holdRequest_badValue hbad)
  case renewed => exact answered_of_reply (exec_hold c s) hacc (holdRequest_renews hg hold)
  case held => exact answered_of_reply (exec_hold c s) hacc (holdRequest_held hg hold hk)
  case state => exact answered_of_reply (exec_hold c s) hacc (holdRequest_state hg hold hmine)
  case stale => exact answered_of_reply (exec_hold c s) hacc (holdRequest_stale hg hold hnone hrev)
  case taken => exact answered_of_reply (exec_hold c s) hacc (holdRequest_takes hg hold hnone hrev)

/-! RELEASE. -/

/-- RELEASE is the take of a RELEASE request (R135). -/
theorem exec_release (c : CtlNo) (s : State) : exec (.release c) s = s.run (Part.serve .release releaseRequest c) := rfl

section release
variable {c : CtlNo} {tag : Byte} {ps : List Byte} {d : Part} {g : GroupNo}

theorem releaseRequest_badValue (h : 12 ≤ (arg ps 0).toNat) : releaseRequest c tag ps d = reply .badValue d := by
  unfold releaseRequest
  rw [numOf_none h]

theorem releaseRequest_state (hg : (arg ps 0).toNat = g.val) (hold : (d.group g).holdHolder ≠ some c) :
    releaseRequest c tag ps d = reply .state d := by
  unfold releaseRequest
  rw [numOf_some hg]
  exact if_neg hold

theorem releaseRequest_ok (hg : (arg ps 0).toNat = g.val) (hold : (d.group g).holdHolder = some c)
    (hdissolve : (d.group g).dissolveTimer = none) : releaseRequest c tag ps d = replyOk [] (d.unheld g) := by
  unfold releaseRequest
  rw [numOf_some hg]
  exact (if_pos hold).trans (by rw [endHold_unheld hdissolve])

end release

/-! The expiry of a hold timer. -/

/-- HOLD_TIMER_EXPIRY is the expiry of the group's hold timer. -/
theorem exec_holdTimerExpiry (g : GroupNo) (s : State) : exec (.holdTimerExpiry g) s = s.run (Part.holdExpiry g) := rfl

/-- The expiry ends the hold as a release does, and tells the controller that held the group (R65, R152). -/
theorem holdExpiry_unheld {d : Part} {g : GroupNo} {c : CtlNo} (htimer : (d.group g).holdTimer ≠ none)
    (hold : (d.group g).holdHolder = some c) (hdissolve : (d.group g).dissolveTimer = none) :
    d.holdExpiry g = (d.unheld g).told (toAll (fun r => r = c) (.holdEnd g .timeout)) := by
  have hruns : (d.group g).holdTimer.isSome = true := Option.isSome_iff_ne_none.2 htimer
  unfold Part.holdExpiry
  rw [if_pos hruns, hold, endHold_unheld hdissolve]
  exact notify_told ..

/-- Settles O25: RELEASE by the three replies of its owner block; a release by the holder and the expiry of the timer end the hold
by the same change of the group, which starts the stopped dissolve timer by its condition. -/
theorem releaseAndExpiryEndTheHold : Obligations.ReleaseAndExpiryEndTheHold := by
  intro g s c unheld
  refine ⟨fun f hacc => ⟨fun hbad => ?badValue, fun hg hold => ?state, fun hg hold hdissolve => ?released⟩,
    fun htimer hold hdissolve => ?expired⟩
  case badValue => exact answered_of_reply (exec_release c s) hacc (releaseRequest_badValue hbad)
  case state => exact answered_of_reply (exec_release c s) hacc (releaseRequest_state hg hold)
  case released => exact answered_of_reply (exec_release c s) hacc (releaseRequest_ok hg hold hdissolve)
  case expired => exact ex (exec_holdTimerExpiry g s) (holdExpiry_unheld htimer hold hdissolve)

end Sys2Proof.Machine
end

section
/-!
PROOFS. Console talk: TALK-START (R83), TALK-END (R84) and TALK-CANCEL (R85). What each of the three does to the floor is said once
in the words of the statements; then each reply of the three owner blocks is said once, by the console's involvement.
-/

namespace Sys2Proof.Machine

/-- An accepted request whose owner block replies at once, where the part it leaves is known only with the frame taken: the response
fills the reservation of the take (R135, R137). -/
theorem responded_of_reply {i : Instr} {k : ReqKind} {h : Handler} {c : CtlNo} {s : State} {f : List Byte} {t : Part} {st : Status}
    {data : List Byte} (hexec : exec i s = s.run (Part.serve k h c)) (hacc : s.part.accepts c k f)
    (hreply : h c (frameTag f) (frameParams f) (s.part.deferredAt c) = { part := t, answer := some (st, data) }) :
    exec i s = .next { s with part := t.responded c f st data } := by
  refine ex hexec ?_
  rw [serve_of_accepts h hacc, takeFrame_deferredAt, hreply, answer_some, respond_responded]

/-! What the three requests do to the floor. -/

/-- A change of a floor reads nothing but the record it changes. -/
theorem modFloor_congr {d : Part} {g : GroupNo} {f f' : FloorRec → FloorRec} (h : f (d.floor g) = f' (d.floor g)) :
    d.modFloor g f = d.modFloor g f' := by
  apply Part.ext_views <;> intros
  case hf x => rw [modFloor_floor, modFloor_floor, h]
  all_goals rfl

/-- The floor record of a pending grant that its console has taken up: TALK, with the grant-window timer stopped (R83). -/
def FloorRec.started (f : FloorRec) : FloorRec := { f with state := .talk, windowTimer := none }

/-- The start of a talk is told to the recipients of FLOOR notices with the floor as it leaves it (R83, R89). -/
theorem talkStart_told (g : GroupNo) (d : Part) :
    d.talkStart g =
      (d.modFloor g fun _ => (d.floor g).started).told (d.floorNews g (d.floor g).started .started) := by
  have hfloor : d.modFloor g FloorRec.started = d.modFloor g fun _ => (d.floor g).started := modFloor_congr rfl
  have hnotice : d.talkStart g = (d.modFloor g FloorRec.started).floorNotice g .started := rfl
  rw [hnotice, floorNotice_told, modFloor_floor_self, hfloor]
  rfl

/-- The part where console `c` no longer waits for the floor of group `g` (R94). -/
def Part.consoleUnlisted (d : Part) (c : CtlNo) (g : GroupNo) : Part :=
  (d.modFloor g (FloorRec.leftBy (.console c))).modConsole c fun r => { r with involvement := .none }

theorem leaveList_consoleUnlisted (g : GroupNo) (c : CtlNo) (d : Part) :
    d.leaveList g (.console c) = d.consoleUnlisted c g := rfl

/-- The OK response carries the group's number as its one byte (R162). -/
theorem replyGroup_eq (g : GroupNo) (d : Part) : replyGroup g d = replyOk (asBytes [g.val]) d := rfl

/-! Replies. -/

/-- TALK_START is the take of a TALK-START request (R135). -/
theorem exec_talkStart (c : CtlNo) (s : State) : exec (.talkStart c) s = s.run (Part.serve .talkStart talkStartRequest c) := rfl

/-- TALK_END is the take of a TALK-END request (R135). -/
theorem exec_talkEnd (c : CtlNo) (s : State) : exec (.talkEnd c) s = s.run (Part.serve .talkEnd talkEndRequest c) := rfl

/-- TALK_CANCEL is the take of a TALK-CANCEL request (R135). -/
theorem exec_talkCancel (c : CtlNo) (s : State) :
    exec (.talkCancel c) s = s.run (Part.serve .talkCancel talkCancelRequest c) := rfl

section talk
variable {c : CtlNo} {tag : Byte} {ps : List Byte} {d : Part} {g : GroupNo}

/-- The console whose grant is pending starts its talk. -/
theorem talkStartRequest_ok (hinv : (d.console c).involvement = .holder g) (hstate : (d.floor g).state = .pending) :
    talkStartRequest c tag ps d = replyOk (asBytes [g.val])
      ((d.modFloor g fun _ => (d.floor g).started).told (d.floorNews g (d.floor g).started .started)) := by
  unfold talkStartRequest
  simp only [hinv, hstate, if_true]
  rw [replyGroup_eq, talkStart_told]

/-- A console with no pending grant has no talk to start. -/
theorem talkStartRequest_state (h : ∀ g, (d.console c).involvement = .holder g → (d.floor g).state ≠ .pending) :
    talkStartRequest c tag ps d = reply .state d := by
  unfold talkStartRequest
  cases hinv : (d.console c).involvement with
  | none => rfl
  | waiter g => rfl
  | holder g => exact if_neg (h g hinv)

/-- The console that talks ends its talk normally (R74). -/
theorem talkEndRequest_ok (hinv : (d.console c).involvement = .holder g) (hstate : (d.floor g).state = .talk) :
    talkEndRequest c tag ps d = replyOk (asBytes [g.val]) (d.normalEnd g) := by
  unfold talkEndRequest
  simp only [hinv, hstate, if_true]
  exact replyGroup_eq g _

/-- A console that does not talk has no talk to end. -/
theorem talkEndRequest_state (h : ∀ g, (d.console c).involvement = .holder g → (d.floor g).state ≠ .talk) :
    talkEndRequest c tag ps d = reply .state d := by
  unfold talkEndRequest
  cases hinv : (d.console c).involvement with
  | none => rfl
  | waiter g => rfl
  | holder g => exact if_neg (h g hinv)

/-- A waiting console leaves the list, with no notice. -/
theorem talkCancelRequest_waiter (hinv : (d.console c).involvement = .waiter g) :
    talkCancelRequest c tag ps d = replyOk (asBytes [g.val]) (d.consoleUnlisted c g) := by
  unfold talkCancelRequest
  simp only [hinv]
  rw [replyGroup_eq, leaveList_consoleUnlisted]

/-- The console whose grant is pending gives it up, and the grant lapses (R82). -/
theorem talkCancelRequest_pending (hinv : (d.console c).involvement = .holder g) (hstate : (d.floor g).state = .pending) :
    talkCancelRequest c tag ps d = replyOk (asBytes [g.val]) (d.lapseGrant g .cancelled) := by
  unfold talkCancelRequest
  simp only [hinv, hstate, if_true]
  exact replyGroup_eq g _

/-- A console that neither waits nor has a pending grant has nothing to cancel: a talk or a parked place is not cancelled. -/
theorem talkCancelRequest_state
    (h : (d.console c).involvement = .none ∨ ∃ g, (d.console c).involvement = .holder g ∧ (d.floor g).state ≠ .pending) :
    talkCancelRequest c tag ps d = reply .state d := by
  unfold talkCancelRequest
  obtain hinv | ⟨g, hinv, hstate⟩ := h
  · simp only [hinv]
  · simp only [hinv]
    exact if_neg hstate

end talk

/-- Settles O43: each request by the replies of its owner block. A start is one change of the floor with its notice, an end is the
normal end of a talk, and a cancel is the entry's leaving of the list or the lapse of the pending grant; the lemmas of the arbiter
say where the floor goes in the last two. -/
theorem talkStartEndAndCancel : Obligations.TalkStartEndAndCancel := by
  intro c s f
  refine ⟨fun hacc => ⟨fun g hinv hstate => ?started, fun hnone => ?startState⟩,
    fun hacc => ⟨fun g hinv hstate => ?ended, fun hnone => ?endState⟩,
    fun hacc => ⟨fun g hinv => ?unlisted, fun g hinv hstate => ?lapsed, fun hnone => ?cancelState⟩⟩
  case started => exact responded_of_reply (exec_talkStart c s) hacc (talkStartRequest_ok hinv hstate)
  case startState => exact answered_of_reply (exec_talkStart c s) hacc (talkStartRequest_state hnone)
  case ended =>
    exact ⟨(s.part.deferredAt c).normalEnd g, endsTalk_spec g _,
      responded_of_reply (exec_talkEnd c s) hacc (talkEndRequest_ok hinv hstate)⟩
  case endState => exact answered_of_reply (exec_talkEnd c s) hacc (talkEndRequest_state hnone)
  case unlisted => exact answered_of_reply (exec_talkCancel c s) hacc (talkCancelRequest_waiter hinv)
  case lapsed =>
    exact ⟨(s.part.deferredAt c).lapseGrant g .cancelled, lapseGrant_goes g .cancelled _,
      responded_of_reply (exec_talkCancel c s) hacc (talkCancelRequest_pending hinv hstate)⟩
  case cancelState => exact answered_of_reply (exec_talkCancel c s) hacc (talkCancelRequest_state hnone)

end Sys2Proof.Machine
end

section
/-!
PROOFS. Arbitration: the grant decision (R96). Each tier is said once as an equation of the decision; what the winner's emergency
flag does to the floor is the rule of a floor given to a source.
-/

namespace Sys2Proof.Machine

/-- Entry `e` is the oldest of the waiting list that meets `q`: the list is in order of age, and no entry before `e` meets it (R96). -/
def Oldest (ws : List Entry) (q : Entry → Prop) (e : Entry) : Prop :=
  ∃ before after, ws = before ++ e :: after ∧ q e ∧ ∀ x ∈ before, ¬ q x

/-- The search from the head of the list finds the oldest entry that meets its test. -/
theorem Oldest.find?_eq_some {ws : List Entry} {q : Entry → Prop} {e : Entry} {test : Entry → Bool}
    (h : Oldest ws q e) (htest : ∀ x, test x = true ↔ q x) : ws.find? test = some e := by
  obtain ⟨before, after, hws, he, hbefore⟩ := h
  exact find_first hws ((htest e).2 he) fun x hx hx' => hbefore x hx ((htest x).1 hx')

/-- The model counts the HIGH entries of the list, the one that tier 3 would name among them (R96). -/
theorem highCount_eq_length_filter (ws : List Entry) :
    highCount ws = (ws.filter fun e => e.srcClass = .high).length :=
  List.countP_eq_length_filter

section tiers
variable {ws : List Entry} {count : Nat} {e : Entry}

/-- Tier 1: an emergency entry wins, and the count stays as it is. -/
theorem grantDecision_emergency (he : Oldest ws (fun x => x.emergency = true) e) :
    grantDecision ws count = some (e, count) := by
  have hfind : ws.find? (fun x => x.emergency) = some e := he.find?_eq_some fun _ => Iff.rfl
  unfold grantDecision
  simp only [hfind]

/-- With no emergency entry tier 1 does not apply, and the class of the entries decides. -/
theorem find?_emergency_eq_none (hcalm : ∀ x ∈ ws, x.emergency = false) : ws.find? (fun x => x.emergency) = none :=
  List.find?_eq_none.2 fun x hx => by simp [hcalm x hx]

/-- Tier 2: a LOW entry whose turn has come wins, and the count starts again. -/
theorem grantDecision_low (hcalm : ∀ x ∈ ws, x.emergency = false) (he : Oldest ws (fun x => x.srcClass = .low) e)
    (hturn : highCount ws = 0 ∨ highCount ws ≤ count) : grantDecision ws count = some (e, 0) := by
  have hlow : ws.find? (fun x => x.srcClass = .low) = some e := he.find?_eq_some fun _ => decide_eq_true_iff
  unfold grantDecision
  simp only [find?_emergency_eq_none hcalm, hlow]
  exact if_pos hturn

/-- Tier 3 before a LOW entry's turn: a HIGH entry wins while the LOW entry stays in the list, so the count goes up. -/
theorem grantDecision_high_of_low_waits (hcalm : ∀ x ∈ ws, x.emergency = false)
    (he : Oldest ws (fun x => x.srcClass = .high) e) (hwaits : ∃ x ∈ ws, x.srcClass = .low) (hturn : count < highCount ws) :
    grantDecision ws count = some (e, count + 1) := by
  have hhigh : ws.find? (fun x => x.srcClass = .high) = some e := he.find?_eq_some fun _ => decide_eq_true_iff
  obtain ⟨l, hlow⟩ : ∃ l, ws.find? (fun x => x.srcClass = .low) = some l :=
    Option.isSome_iff_exists.1 (List.find?_isSome.2 (by simpa using hwaits))
  have hnot : ¬ (highCount ws = 0 ∨ highCount ws ≤ count) := by omega
  unfold grantDecision
  simp only [find?_emergency_eq_none hcalm, hlow, hhigh, Option.map_some]
  exact if_neg hnot

/-- Tier 3 with no LOW entry in the list: a HIGH entry wins, and the count stays as it is. -/
theorem grantDecision_high_of_no_low (hcalm : ∀ x ∈ ws, x.emergency = false)
    (he : Oldest ws (fun x => x.srcClass = .high) e) (hall : ∀ x ∈ ws, x.srcClass = .high) :
    grantDecision ws count = some (e, count) := by
  have hhigh : ws.find? (fun x => x.srcClass = .high) = some e := he.find?_eq_some fun _ => decide_eq_true_iff
  have hlow : ws.find? (fun x => x.srcClass = .low) = none := List.find?_eq_none.2 fun x hx => by simp [hall x hx]
  unfold grantDecision
  simp only [find?_emergency_eq_none hcalm, hlow, hhigh, Option.map_some]

end tiers

/-- An empty list has no winner. -/
theorem grantDecision_nil (count : Nat) : grantDecision [] count = none := rfl

/-- The floor given to a port or to a console has the mark it is given with (R77). -/
@[simp] theorem givenTo_mark (src : Source) (mark : Bool) (window : Nat) (ws : List Entry) (count : Nat) :
    (FloorRec.givenTo src mark window ws count).mark = mark := by
  cases src with
  | port p => rfl
  | console c => rfl

/-- The floor that passes on to a winner has the winner's emergency flag as its mark (R77, R96). -/
theorem passed_mark {f : FloorRec} {e : Entry} {n : Nat} (window : Nat)
    (hwinner : grantDecision f.waiting f.lowTurn = some (e, n)) : (f.passed window).mark = e.emergency := by
  unfold FloorRec.passed
  simp only [hwinner, givenTo_mark]

/-- Settles O46: one equation of the grant decision for each tier, with tier 3 split by whether a LOW entry stays in the list, and
the mark of the floor that passes on. -/
theorem grantDecisionTiers : Obligations.GrantDecisionTiers := by
  intro ws count high oldest
  have hhigh : highCount ws = high := highCount_eq_length_filter ws
  refine ⟨fun e he => grantDecision_emergency he, fun hcalm => ⟨?low, ?highCounted, ?highAlone⟩, grantDecision_nil count, ?mark⟩
  case low => exact fun e he hturn => grantDecision_low hcalm he (hhigh ▸ hturn)
  case highCounted => exact fun e he hwaits hturn => grantDecision_high_of_low_waits hcalm he hwaits (hhigh ▸ hturn)
  case highAlone => exact fun e he hall => grantDecision_high_of_no_low hcalm he hall
  case mark =>
    rintro f window e n rfl rfl hwinner
    exact passed_mark window hwinner

end Sys2Proof.Machine
end

section
/-!
PROOFS. The status byte (R133, R167): three fields packed side by side, each of which is read back as long as it fits its width. What
the fields hold, and that they fit, is said apart from the packing.
-/

namespace Sys2Proof.Machine

/-- The byte with a two-bit buffer field, a five-bit queue field and the lost field (R167). -/
def packStatus (buffer queue : Nat) (lost : Bool) : Byte := byteOf (64 * buffer + 2 * queue + if lost then 1 else 0)

/-- The status byte packs what R133 lets each field show. -/
theorem statusByte_eq_packStatus (d : Part) (c : CtlNo) :
    d.statusByte c =
      packStatus (if (d.ctl c).overrun = true then 3 else 2 - (d.ctl c).buffer.length)
        (if d.storeState = .loading then 31 else (d.ctl c).outbound.length) (d.ctl c).lost := by
  simp only [Part.statusByte, packStatus, Part.loading, decide_eq_true_eq, Config.requestCapacity]

section fields
variable {buffer queue : Nat}

/-- Fields that fit their widths leave nothing of the sum to be cut off by the byte. -/
theorem packStatus_toNat (hbuffer : buffer < 4) (hqueue : queue < 32) (lost : Bool) :
    (packStatus buffer queue lost).toNat = 64 * buffer + 2 * queue + if lost then 1 else 0 := by
  have hfits : (64 * buffer + 2 * queue + if lost then 1 else 0) < 2 ^ 8 := by split <;> omega
  exact (BitVec.toNat_ofNat _ 8).trans (Nat.mod_eq_of_lt hfits)

theorem packStatus_bufferField (hbuffer : buffer < 4) (hqueue : queue < 32) (lost : Bool) :
    ((packStatus buffer queue lost).extractLsb' 6 2).toNat = buffer := by
  rw [BitVec.extractLsb'_toNat, packStatus_toNat hbuffer hqueue, Nat.shiftRight_eq_div_pow]
  split <;> omega

theorem packStatus_queueField (hbuffer : buffer < 4) (hqueue : queue < 32) (lost : Bool) :
    ((packStatus buffer queue lost).extractLsb' 1 5).toNat = queue := by
  rw [BitVec.extractLsb'_toNat, packStatus_toNat hbuffer hqueue, Nat.shiftRight_eq_div_pow]
  split <;> omega

theorem packStatus_lostField (hbuffer : buffer < 4) (hqueue : queue < 32) (lost : Bool) :
    (packStatus buffer queue lost).getLsbD 0 = lost := by
  rw [← BitVec.testBit_toNat, packStatus_toNat hbuffer hqueue, Nat.testBit_zero]
  cases lost with
  | false => exact decide_eq_false (by simp only [Bool.false_eq_true, if_false]; omega)
  | true => exact decide_eq_true (by simp only [if_true]; omega)

end fields

/-- Settles O7: what each field shows fits its width, OVERRUN (3) and STARTING (31) included, and so reads back. The bound on the
buffer is not needed, for the free entries are at most 2 in any case. -/
theorem statusByteFields : Obligations.StatusByteFields := by
  intro d c _ houtbound
  have hbuffer : (if (d.ctl c).overrun = true then 3 else 2 - (d.ctl c).buffer.length) < 4 := by split <;> omega
  have hqueue : (if d.storeState = .loading then 31 else (d.ctl c).outbound.length) < 32 := by split <;> omega
  rw [statusByte_eq_packStatus]
  exact ⟨packStatus_bufferField hbuffer hqueue _, packStatus_queueField hbuffer hqueue _, packStatus_lostField hbuffer hqueue _⟩

end Sys2Proof.Machine
end

section
/-!
PROOFS. The bytes of outbound entries (R158, R159, R162, R166). The check of a frame the part seals cancels the register (R158),
which is said of one byte first; the fields of a notice are said once as numbers, kind by kind.
-/

namespace Sys2Proof.Machine

/-! The check over a whole frame (R158). -/

/-- A bit equal to the one that leaves the register subtracts no generator. -/
theorem crcBit_msb (r : Word) : crcBit r r.msb = r <<< 1 := by
  rw [crcBit_eq, if_pos rfl]
  exact BitVec.xor_zero

/-- The bit that leaves the register after `i` moves is bit `7 - i` of its high byte at the start. -/
theorem shiftLeft_msb_eq_highByte (r : Word) {i : Nat} (hi : i < 8) :
    (r <<< i).msb = (r.extractLsb' 8 8).getLsbD (7 - i) := by
  have hlow : ¬ 15 < i := by omega
  have hbit : 7 - i < 8 := by omega
  have hplace : 8 + (7 - i) = 15 - i := by omega
  simp [BitVec.msb_eq_getLsbD_last, hlow, hbit, hplace, BitVec.getLsbD_eq_getElem (x := r) (i := 15 - i) (by omega)]

/-- As many bits of its own high byte as are taken in move the register up and leave nothing else. -/
theorem foldl_crcBit_highByte (r : Word) {n : Nat} (hn : n ≤ 8) :
    (List.range n).foldl (fun q i => crcBit q ((r.extractLsb' 8 8).getLsbD (7 - i))) r = r <<< n := by
  induction n with
  | zero => exact (BitVec.shiftLeft_zero r).symm
  | succ n ih =>
    rw [List.range_succ, List.foldl_append, ih (by omega), List.foldl_cons, List.foldl_nil,
      ← shiftLeft_msb_eq_highByte r (by omega), crcBit_msb, BitVec.shiftLeft_add]

/-- The register's own high byte leaves the low byte, moved up. -/
theorem crcByte_highByte (r : Word) : crcByte r (r.extractLsb' 8 8) = r <<< 8 := by
  have hdown : [7, 6, 5, 4, 3, 2, 1, 0] = (List.range 8).map (7 - ·) := rfl
  unfold crcByte
  rw [hdown, List.foldl_map]
  exact foldl_crcBit_highByte r le_rfl

/-- The low byte is the high byte of the register moved up by a byte. -/
theorem highByte_shiftLeft (r : Word) : (r <<< 8).extractLsb' 8 8 = r.extractLsb' 0 8 := by
  ext i hi
  have hin : 8 + i < 16 := by omega
  simp [hin, BitVec.getLsbD_eq_getElem (x := r) (i := i) (by omega)]

/-- The register's own two bytes, high byte first, cancel it. -/
theorem crcByte_ownBytes (r : Word) : crcByte (crcByte r (r.extractLsb' 8 8)) (r.extractLsb' 0 8) = 0 :=
  calc crcByte (crcByte r (r.extractLsb' 8 8)) (r.extractLsb' 0 8)
      = crcByte (r <<< 8) ((r <<< 8).extractLsb' 8 8) := by rw [crcByte_highByte, highByte_shiftLeft]
    _ = (r <<< 8) <<< 8 := crcByte_highByte _
    _ = r <<< 16 := (BitVec.shiftLeft_add r 8 8).symm
    _ = 0 := BitVec.shiftLeft_eq_zero le_rfl

theorem crc_append_wordBytes (bytes : List Byte) : crc (bytes ++ wordBytes (crc bytes)) = 0 := by
  rw [wordBytes, List.append_cons, crc_concat, crc_concat]
  exact crcByte_ownBytes _

theorem crc_sealFrame (content : List Byte) : crc (sealFrame content) = 0 := crc_append_wordBytes _

/-- Every outbound entry is a sealed frame, so the check over the whole of it is 0. -/
theorem crc_outEntry_bytes (e : OutEntry) : crc e.bytes = 0 := by
  cases e with
  | response kind tag st data => exact crc_sealFrame _
  | notice n => exact crc_sealFrame _

/-! The fields of notices (R160, R161, R166). -/

theorem boolByte_eq (b : Bool) : boolByte b = BitVec.ofNat 8 (if b = true then 1 else 0) := by
  cases b <;> rfl

theorem portState_code_eq (st : PortState) : st.code = BitVec.ofNat 8 st.number := by
  cases st <;> rfl

/-- A byte is the byte of its own number. -/
theorem ofNat_byte_toNat (b : Byte) : BitVec.ofNat 8 b.toNat = b := by
  rw [BitVec.ofNat_toNat, BitVec.setWidth_eq]

/-- The fields of a notice from byte 2, as numbers in the order of R166. -/
def Notice.numbers : Notice → List Nat
  | .floor g st holder mark cause =>
    [g.val, st.code.toNat, orNone (holder.map Source.number), if mark = true then 1 else 0, cause.code.toNat]
  | .grant g => [g.val]
  | .lapse g cause => [g.val, cause.code.toNat]
  | .layout g revision cause => g.val :: twoBytes revision.toNat ++ [cause.code.toNat]
  | .holdEnd g .timeout => [g.val, 0]
  | .port p st cause => [p.val, st.number, cause.code.toNat]
  | .carrier p on level => [p.val, if on = true then 1 else 0, level]
  | .controller c joined => [c.val, if joined = true then 1 else 0]
  | .lost => []

/-- The fields the part writes are those numbers as bytes. -/
theorem fields_eq_numbers (n : Notice) : n.fields = asBytes n.numbers := by
  cases n with
  | floor g st holder mark cause =>
    simp only [Notice.fields, Notice.numbers, asBytes, List.map_cons, List.map_nil, ofNat_byte_toNat, opt_src, boolByte_eq]
    rfl
  | grant g => rfl
  | lapse g cause =>
    simp only [Notice.fields, Notice.numbers, asBytes, List.map_cons, List.map_nil, ofNat_byte_toNat]
    rfl
  | layout g revision cause =>
    rw [Notice.fields, Notice.numbers, List.cons_append, wordBytes_two]
    simp only [asBytes, List.map_cons, List.map_append, List.map_nil, ofNat_byte_toNat]
    rfl
  | holdEnd g cause => cases cause; rfl
  | port p st cause =>
    simp only [Notice.fields, Notice.numbers, asBytes, List.map_cons, List.map_nil, ofNat_byte_toNat, portState_code_eq]
    rfl
  | carrier p on level => rw [Notice.fields, boolByte_eq]; rfl
  | controller c joined => rw [Notice.fields, boolByte_eq]; rfl
  | lost => rfl

/-- The length byte, the content and the two bytes of the check, high byte first. -/
theorem sealFrame_eq (content : List Byte) :
    sealFrame content =
      (BitVec.ofNat 8 (content.length + 3) :: content) ++
        asBytes (twoBytes (crc (BitVec.ofNat 8 (content.length + 3) :: content)).toNat) := by
  rw [← wordBytes_two]
  rfl

/-- Settles O26: every entry is a sealed frame, whose check cancels the register; the content of a notice is its kind code and its
numbers as bytes, of which each clause is one kind. -/
theorem outboundEntryBytes : Obligations.OutboundEntryBytes := by
  unfold Obligations.OutboundEntryBytes
  intro frame flag notice
  have hresponse (kind tag : Byte) (st : Status) (data : List Byte) :
      (OutEntry.response kind tag st data).bytes = frame (kind :: tag :: st.code :: data) := sealFrame_eq _
  have hnotice (n : Notice) : (OutEntry.notice n).bytes = frame (n.kind.code :: asBytes n.numbers) := by
    rw [OutEntry.bytes, fields_eq_numbers]
    exact sealFrame_eq _
  exact ⟨crc_outEntry_bytes, hresponse, rfl,
    fun g st holder mark cause => hnotice (.floor g st holder mark cause),
    fun g => hnotice (.grant g),
    fun g cause => hnotice (.lapse g cause),
    fun g revision cause => hnotice (.layout g revision cause),
    fun g => hnotice (.holdEnd g .timeout),
    fun p st cause => hnotice (.port p st cause),
    fun p on level => hnotice (.carrier p on level),
    fun c joined => hnotice (.controller c joined),
    hnotice .lost, rfl, rfl, rfl, rfl, rfl⟩

end Sys2Proof.Machine
end

section
/-!
PROOFS. The queue, the values of a reset, and the start-up load. The load is followed record by record: what it writes of the ports,
what an entry of the preset writes of its group, and what a run over the entries leaves of the groups it does not name.
-/

namespace Sys2Proof.Machine

/-- Settles O1: both clauses are how a step reads the queue. -/
theorem stepTakesTheFront : Obligations.StepTakesTheFront := by
  refine ⟨fun i rest s => rfl, fun s hempty => ?_⟩
  unfold step
  rw [hempty]

/-! The values of a reset. -/

/-- A port has no group exactly where no group lists it (R4). -/
theorem groupOf_eq_none_iff (d : Part) (p : PortNo) : d.groupOf p = none ↔ ∀ g, p ∉ (d.group g).members := by
  simp [Part.groupOf, List.find?_eq_none]

theorem groupOf_reset (p : PortNo) : State.reset.part.groupOf p = none :=
  (groupOf_eq_none_iff _ p).2 fun g => by rw [group_reset]; exact List.not_mem_nil

theorem mem_defaultMask (k : NoticeKind) : k ∈ defaultMask ↔ k ≠ .carrier := by
  cases k <;> decide

/-- Settles O2: each table at reset holds one record for every number, whose fields are read off. -/
theorem resetValues : Obligations.ResetValues := by
  unfold Obligations.ResetValues
  intro d
  refine ⟨fun p => ?port, fun g => ⟨group_reset g, floor_reset g⟩, fun c => ⟨console_reset c, ?ctl⟩, tget_replicate _,
    tget_replicate _, rfl, rfl, tget_replicate _, rfl, rfl⟩
  case port =>
    rw [port_reset, groupOf_reset]
    exact ⟨rfl, rfl, rfl, rfl, rfl, rfl, rfl, rfl, rfl, rfl, rfl, rfl, rfl, rfl, rfl, rfl, rfl⟩
  case ctl =>
    rw [ctl_reset]
    exact ⟨rfl, rfl, rfl, rfl, rfl, rfl, rfl, rfl, rfl, mem_defaultMask⟩

/-- Settles O3: the device reset is one record update, of which every clause but that of the controller ports is a field. -/
theorem deviceResetClearsAll : Obligations.DeviceResetClearsAll := by
  intro s
  refine ⟨s.part.deviceReset, rfl, rfl, rfl, rfl, rfl, rfl, rfl, rfl, rfl, rfl, fun c => ?_, rfl, rfl⟩
  rw [ctl_reset]
  exact tget_tmap ..

/-! The start-up load: the ports. -/

theorem restartFrames_eq (code : Fin 6) : restartFrames code = timeoutFrames code := by
  revert code; decide

theorem restartFrames_eq_none_iff (code : Fin 6) : restartFrames code = none ↔ code = 0 := by
  revert code; decide

/-- A port whose link is DOWN and whose restart timer is as `r` has it takes its entry, and a timeout other than OFF starts its
restart timer (R8, R129). -/
theorem load_of_linkDown {r : PortRec} (s : PortSettings) (hlink : r.linkUp = false) :
    r.load s =
      match timeoutFrames s.restartTimeout with
      | none => { r with settings := s }
      | some n => { r with settings := s, restartPhase := .waiting, restartTimer := some n } := by
  unfold PortRec.load PortRec.startRestart
  rw [← restartFrames_eq]
  by_cases hoff : s.restartTimeout = 0
  · simp [hoff, (restartFrames_eq_none_iff 0).2 rfl]
  · obtain ⟨n, hn⟩ := Option.ne_none_iff_exists'.1 (mt (restartFrames_eq_none_iff _).1 hoff)
    simp [hoff, hlink, hn, startTimer]

/-- The load of the port-settings record writes the ports and nothing else. -/
theorem loadPorts_fields (d : Part) : d.loadPorts = { d with ports := d.loadPorts.ports } := by
  unfold Part.loadPorts
  split <;> rfl

theorem loadPorts_port (d : Part) (p : PortNo) :
    d.loadPorts.port p =
      match d.portsRecord with
      | none => d.port p
      | some es => (d.port p).load (tget es p) := by
  unfold Part.loadPorts
  cases d.portsRecord with
  | none => rfl
  | some es => exact tget_tmap ..

/-! The start-up load: the groups. -/

/-- The record that an entry with members leaves of its group, whose floor is FREE (R50, R129). -/
def GroupRec.loaded (e : GroupEntry) (r : GroupRec) : GroupRec :=
  { r with members := e.members, settings := e.settings, revision := 1 }.timed true

theorem loadEntry_empty {e : GroupEntry} (d : Part) (h : e.members = []) : d.loadEntry e = d := by
  unfold Part.loadEntry
  rw [h]
  rfl

theorem loadEntry_formed {e : GroupEntry} {d : Part} (h : e.members ≠ []) (hfree : (d.floor e.group).state = .free) :
    d.loadEntry e = d.modGroup e.group (GroupRec.loaded e) := by
  have hne : ¬ e.members.isEmpty = true := by simpa using h
  unfold Part.loadEntry
  rw [if_neg hne, modGroup_refreshDissolve, hfree]
  rfl

/-- An entry writes the record of the group it names, and nothing else. -/
theorem loadEntry_fields (e : GroupEntry) (d : Part) : d.loadEntry e = { d with groups := (d.loadEntry e).groups } := by
  unfold Part.loadEntry
  split <;> rfl

theorem loadEntry_group_of_ne {e : GroupEntry} {g : GroupNo} (d : Part) (h : g ≠ e.group ∨ e.members = []) :
    (d.loadEntry e).group g = d.group g := by
  by_cases hm : e.members = []
  · rw [loadEntry_empty d hm]
  · unfold Part.loadEntry
    rw [if_neg (by simpa using hm), refreshDissolve_group, if_neg (h.resolve_right hm), modGroup_group,
      if_neg (h.resolve_right hm)]

theorem each_loadEntry_fields (pre : Preset) (d : Part) :
    Part.each Part.loadEntry pre d = { d with groups := (Part.each Part.loadEntry pre d).groups } := by
  induction pre generalizing d with
  | nil => rfl
  | cons e pre ih => rw [each_cons, ih, loadEntry_fields]

/-- A group that no entry forms keeps its record. -/
theorem each_loadEntry_group_of_not_formed {pre : Preset} {g : GroupNo} (d : Part)
    (h : ∀ e ∈ pre, e.group = g → e.members = []) : (Part.each Part.loadEntry pre d).group g = d.group g := by
  induction pre generalizing d with
  | nil => rfl
  | cons e pre ih =>
    rw [each_cons, ih _ fun x hx => h x (List.mem_cons_of_mem _ hx)]
    refine loadEntry_group_of_ne d ?_
    by_cases hg : e.group = g
    · exact .inr (h e List.mem_cons_self hg)
    · exact .inl (Ne.symm hg)

/-- A group that one entry forms has the record that entry leaves: no other entry of the preset names it. -/
theorem each_loadEntry_group_of_formed {pre : Preset} {e : GroupEntry} (d : Part) (he : e ∈ pre) (hm : e.members ≠ [])
    (hnodup : (pre.map fun e => e.group).Nodup) (hfree : ∀ g, (d.floor g).state = .free) :
    (Part.each Part.loadEntry pre d).group e.group = (d.group e.group).loaded e := by
  induction pre generalizing d with
  | nil => exact absurd he List.not_mem_nil
  | cons x pre ih =>
    obtain ⟨hx, hrest⟩ := List.nodup_cons.1 hnodup
    have hfloor : ∀ g, ((d.loadEntry x).floor g).state = .free := by rw [loadEntry_fields]; exact hfree
    rw [each_cons]
    rcases List.mem_cons.1 he with rfl | he'
    · rw [each_loadEntry_group_of_not_formed _ fun y hy hg =>
        absurd (List.mem_map.2 ⟨y, hy, hg⟩) hx, loadEntry_formed hm (hfree _), modGroup_group_self]
    · rw [ih _ he' hrest hfloor, loadEntry_group_of_ne d]
      exact .inl fun hg => hx (List.mem_map.2 ⟨e, he', hg⟩)

theorem loadPreset_fields (d : Part) : d.loadPreset = { d with groups := d.loadPreset.groups } := by
  unfold Part.loadPreset
  split
  · rfl
  · exact each_loadEntry_fields ..

theorem loadPreset_group_of_formed {d : Part} {pre : Preset} {e : GroupEntry} (hpre : tget d.slots 0 = some pre) (he : e ∈ pre)
    (hm : e.members ≠ []) (hnodup : (pre.map fun e => e.group).Nodup) (hfree : ∀ g, (d.floor g).state = .free) :
    d.loadPreset.group e.group = (d.group e.group).loaded e := by
  unfold Part.loadPreset
  simp only [hpre]
  exact each_loadEntry_group_of_formed d he hm hnodup hfree

theorem loadPreset_group_of_not_formed {d : Part} {g : GroupNo}
    (h : ∀ pre, tget d.slots 0 = some pre → ∀ e ∈ pre, e.group = g → e.members = []) :
    d.loadPreset.group g = d.group g := by
  unfold Part.loadPreset
  cases hpre : tget d.slots 0 with
  | none => rfl
  | some pre => exact each_loadEntry_group_of_not_formed d (h pre hpre)

/-- A group at its reset value, formed by an entry: revision 1, and the dissolve timer at its full time where there is one. -/
theorem loaded_reset {e : GroupEntry} (hm : e.members ≠ []) :
    GroupRec.reset.loaded e =
      { members := e.members, revision := 1, settings := e.settings, holdHolder := none, holdTimer := none,
        dissolveTimer := if e.settings.dissolve = 0 then none else some (480000 * e.settings.dissolve) } := by
  by_cases hd : e.settings.dissolve = 0 <;> simp [GroupRec.loaded, GroupRec.timed, GroupRec.reset, hm, hd]

/-- Settles O4: the load writes the ports, then the groups, then the store; each clause is the lemma of the table it reads. -/
theorem loadCompletionFormsTheLayout : Obligations.LoadCompletionFormsTheLayout := by
  intro s hload hgroups hfree hlink hnodup
  have hexec : exec .startUpLoadCompletion s = .next { s with part := s.part.loadPorts.loadPreset.storeIdle } :=
    ex (f := Part.loadDone) rfl (if_pos hload)
  have hfields : s.part.loadPorts.loadPreset.storeIdle =
      { s.part with ports := s.part.loadPorts.ports, groups := s.part.loadPorts.loadPreset.groups, storeOp := none } := by
    rw [Part.storeIdle, loadPreset_fields, loadPorts_fields]
  have hslots : s.part.loadPorts.slots = s.part.slots := by rw [loadPorts_fields]
  have hgroup (g : GroupNo) : s.part.loadPorts.group g = s.part.group g := by rw [loadPorts_fields]; rfl
  have hfloor (g : GroupNo) : s.part.loadPorts.floor g = s.part.floor g := by rw [loadPorts_fields]; rfl
  refine ⟨_, hexec, fun p => ?port, fun pre e hpre he hm => ?formed, fun g hnot => ?others, ?_⟩
  case port =>
    rw [hfields]
    refine (loadPorts_port s.part p).trans ?_
    cases s.part.portsRecord with
    | none => rfl
    | some es => exact load_of_linkDown _ (hlink p)
  case formed =>
    refine (loadPreset_group_of_formed (hslots ▸ hpre) he hm (hnodup pre hpre) fun g => (hfloor g) ▸ hfree g).trans ?_
    rw [hgroup, hgroups, group_reset, loaded_reset hm]
  case others =>
    exact (loadPreset_group_of_not_formed fun pre hpre => hnot pre (hslots ▸ hpre)).trans (hgroup g)
  rw [hfields]
  exact ⟨rfl, rfl, rfl, rfl, rfl, rfl, rfl, rfl, rfl, rfl⟩

/-! The invariants at a reset. -/

theorem queuesSound_reset : State.reset.part.QueuesSound := by
  refine ⟨fun op hop _ => ?load, fun c => ?ctl⟩
  case load => cases hop; rfl
  case ctl =>
    rw [ctl_reset]
    refine ⟨by decide, by decide, ?_, fun _ => rfl, fun _ => rfl, nofun, by decide, nofun⟩
    rintro ⟨op, hop, hreq, -⟩
    cases hop
    exact nomatch hreq

theorem layoutSound_reset : State.reset.part.LayoutSound := by
  refine ⟨fun g => ?group, fun g h p hp => ?one, fun i pre hpre => ?slot, fun op slot pre hop hkind => ?store,
    fun op slot hop hkind => ?erase, fun _ g => group_reset g⟩
  case group => rw [group_reset]; exact ⟨List.nodup_nil, by decide⟩
  case one => rw [group_reset] at hp; exact absurd hp List.not_mem_nil
  case slot => exact nomatch (tget_replicate (n := 16) (none : Option Preset) i).symm.trans hpre
  case store => cases hop; exact nomatch hkind
  case erase => cases hop; exact nomatch hkind

theorem portsSound_reset : State.reset.part.PortsSound := by
  refine ⟨fun p => ?port, by decide, nofun, fun op es hop hkind => ?store⟩
  case store => cases hop; exact nomatch hkind
  case port =>
    have hpeak : tget State.reset.part.peaks p = 0 := tget_replicate ..
    intro r
    have hr : r = PortRec.reset p := port_reset p
    rw [hr, hpeak]
    exact ⟨rfl, fun _ => ⟨rfl, rfl⟩, fun _ => rfl, fun _ => rfl, by simp [PortRec.reset], fun _ => .inl rfl, nofun,
      by simp [PortRec.reset], nofun, by simp [PortRec.reset], by simp [PortRec.reset], le_rfl, by simp [PortRec.reset], by simp,
      fun _ => ⟨rfl, rfl⟩⟩

theorem floorsSound_reset : State.reset.part.FloorsSound := by
  refine ⟨fun g => ?floor, fun c g => ?console⟩
  case floor => rw [floor_reset]; exact ⟨⟨fun _ => rfl, rfl⟩, fun _ => rfl⟩
  case console => rw [console_reset, floor_reset]; simp [ConsoleRec.reset, FloorRec.reset]

theorem holdsSound_reset : State.reset.part.HoldsSound := by
  refine ⟨fun g => ?group, fun g h c hg => ?one, fun g c hg => ?attached⟩
  case group => rw [group_reset]; simp [GroupRec.reset]
  case one => rw [group_reset] at hg; exact nomatch hg
  case attached => rw [group_reset] at hg; exact nomatch hg

theorem portsFollow_reset : State.reset.part.PortsFollow := by
  refine ⟨fun p => ?source, fun g p hp => ?holder, fun g p hp => ?waiter, fun p hp => ?keyed, fun p hp => ?idle, fun g => ?once⟩
  case source => simp [port_reset, floor_reset, PortRec.reset, FloorRec.reset]
  case holder => rw [floor_reset] at hp; exact nomatch hp
  case waiter => rw [floor_reset] at hp; obtain ⟨e, he, -⟩ := hp; exact nomatch he
  case keyed => rw [port_reset] at hp; exact nomatch hp
  case idle => rw [port_reset] at hp; exact nomatch hp
  case once => rw [floor_reset]; exact List.nodup_nil

/-- Settles O54: one lemma for each invariant. -/
theorem invariantsHoldAtReset : Obligations.InvariantsHoldAtReset :=
  ⟨queuesSound_reset, layoutSound_reset, portsSound_reset, floorsSound_reset, holdsSound_reset, portsFollow_reset⟩

end Sys2Proof.Machine
end

section
/-!
PROOFS. The controller link (chapter 9): the direction byte, the bytes of a WRITE cycle, the end of a cycle and the removal of an
entry, the admission of notices, the output lines, and the take of a request with its acceptance checks.
-/

namespace Sys2Proof.Machine

/-! Changes of one controller port. -/

/-- A change of a controller port reads nothing but the port it changes. -/
theorem modCtl_congr {d : Part} {c : CtlNo} {f f' : CtlPort → CtlPort} (h : f (d.ctl c) = f' (d.ctl c)) :
    d.modCtl c f = d.modCtl c f' := by
  apply Part.ext_views <;> intros
  case hq x => rw [modCtl_ctl, modCtl_ctl, h]
  all_goals rfl

/-- A change that leaves the controller port as it is leaves the part as it is. -/
theorem modCtl_self {d : Part} {c : CtlNo} {f : CtlPort → CtlPort} (h : f (d.ctl c) = d.ctl c) : d.modCtl c f = d := by
  apply Part.ext_views <;> intros
  case hq x =>
    rw [modCtl_ctl]
    split
    · next hx => rw [hx, h]
    · rfl
  all_goals rfl

/-! The direction byte (R132). -/

section direction
variable {d : Part} {c : CtlNo}

theorem directionByte_of_resetLine (part : DirectionPart) (h : (d.ctl c).resetLine = true) :
    d.directionByte c part = d.modCtl c CtlPort.ignoreSelect := if_pos h

theorem directionByte_select (h : (d.ctl c).resetLine = false) (hcycle : (d.ctl c).cycle = .closed) :
    d.directionByte c .select = d.openCycle c := by
  unfold Part.directionByte
  simp [h, hcycle]

theorem directionByte_complete (code : Byte) (h : (d.ctl c).resetLine = false) (hcycle : (d.ctl c).cycle = .direction) :
    d.directionByte c (.complete code) = d.modCtl c (CtlPort.direct code) := by
  unfold Part.directionByte
  simp [h, hcycle]

end direction

theorem direct_write (q : CtlPort) : q.direct 0x3C = { q with overrun := false, cycle := .write, frame := none } := rfl

theorem direct_read (q : CtlPort) :
    q.direct 0xC3 =
      { q with overrun := false, cycle := .read (!q.outbound.isEmpty),
               offered := q.offered ++ (match q.outbound with
                 | [] => [0x00]
                 | e :: _ => e.bytes) } := by
  cases h : q.outbound <;> simp [CtlPort.direct, CtlPort.readBytes, writeCode, readCode, emptyMarker, h]

theorem direct_other {code : Byte} (hw : code ≠ 0x3C) (hr : code ≠ 0xC3) (q : CtlPort) :
    q.direct code = { q with overrun := false, cycle := .ignored } := (if_neg hw).trans (if_neg hr)

/-- Settles O6: the command has one equation for each moment it acts at, and the direction code one for each way the cycle goes on. -/
theorem directionByteDirectsTheCycle : Obligations.DirectionByteDirectsTheCycle := by
  intro c s
  have hexec (part : DirectionPart) : exec (.directionByte c part) s = s.run (Part.directionByte c part) := rfl
  refine ⟨fun hl hc => ?select, fun hl hc => ?write, fun hl hc => ?read, fun code hw hr hl hc => ?other,
    fun part hl hc => ?selected, fun part hl hc => ?ignored⟩
  case select => exact ex (hexec _) (directionByte_select hl hc)
  case write => exact ex (hexec _) ((directionByte_complete _ hl hc).trans (modCtl_congr (direct_write _)))
  case read => exact ex (hexec _) ((directionByte_complete _ hl hc).trans (modCtl_congr (direct_read _)))
  case other => exact ex (hexec _) ((directionByte_complete _ hl hc).trans (modCtl_congr (direct_other hw hr _)))
  case selected => exact ex (hexec _) ((directionByte_of_resetLine _ hl).trans (modCtl_self (if_neg hc)))
  case ignored => exact ex (hexec _) ((directionByte_of_resetLine _ hl).trans (modCtl_congr (if_pos hc)))

/-! The bytes of a WRITE cycle (R134). -/

section receive
variable {q : CtlPort} {b : Byte}

theorem receiveByte_of_not_write (h : q.cycle ≠ .write) : q.receiveByte b = q := if_neg h

theorem foldl_receiveByte_of_not_write (h : q.cycle ≠ .write) (bytes : List Byte) : bytes.foldl CtlPort.receiveByte q = q := by
  induction bytes with
  | nil => rfl
  | cons b bytes ih => rw [List.foldl_cons, receiveByte_of_not_write h, ih]

/-- A declared length that no frame has discards the cycle. -/
theorem receiveByte_of_bad_length (h : q.cycle = .write)
    (hbad : ((q.frame.getD [] ++ [b]).getD 0 0).toNat < 5 ∨ 96 < ((q.frame.getD [] ++ [b]).getD 0 0).toNat) :
    q.receiveByte b = { q with frame := none, cycle := .ignored } := (if_pos h).trans (if_pos hbad)

/-- The last byte of the declared length completes the frame. -/
theorem receiveByte_of_complete (h : q.cycle = .write)
    (hlen : (q.frame.getD [] ++ [b]).length = ((q.frame.getD [] ++ [b]).getD 0 0).toNat)
    (hmin : 5 ≤ (q.frame.getD [] ++ [b]).length) (hmax : (q.frame.getD [] ++ [b]).length ≤ 96) :
    q.receiveByte b = q.acceptFrame (q.frame.getD [] ++ [b]) := by
  have hgood : ¬ (((q.frame.getD [] ++ [b]).getD 0 0).toNat < 5 ∨ ((q.frame.getD [] ++ [b]).getD 0 0).toNat > 96) := by omega
  exact (if_pos h).trans ((if_neg hgood).trans (if_pos hlen))

/-- A byte before the last of the declared length stays in progress. -/
theorem receiveByte_of_partial (h : q.cycle = .write)
    (hlen : (q.frame.getD [] ++ [b]).length < ((q.frame.getD [] ++ [b]).getD 0 0).toNat)
    (hmin : 5 ≤ ((q.frame.getD [] ++ [b]).getD 0 0).toNat) (hmax : ((q.frame.getD [] ++ [b]).getD 0 0).toNat ≤ 96) :
    q.receiveByte b = { q with frame := some (q.frame.getD [] ++ [b]) } := by
  have hgood : ¬ (((q.frame.getD [] ++ [b]).getD 0 0).toNat < 5 ∨ ((q.frame.getD [] ++ [b]).getD 0 0).toNat > 96) := by omega
  exact (if_pos h).trans ((if_neg hgood).trans (if_neg hlen.ne))

end receive

/-- The declared length is the first byte, whatever follows it. -/
theorem getD_zero_append (l m : List Byte) (h : l ≠ []) : (l ++ m).getD 0 0 = l.getD 0 0 := by
  obtain ⟨b, l', rfl⟩ := List.exists_cons_of_ne_nil h
  rfl

/-- The bytes of a whole frame, behind those received before them, complete it, and the bytes after it are ignored. -/
theorem foldl_receiveByte_complete {f extra : List Byte} (hmin : 5 ≤ f.length) (hmax : f.length ≤ 96)
    (hdecl : (f.getD 0 0).toNat = f.length) :
    ∀ (bytes : List Byte) (q : CtlPort), q.cycle = .write → q.frame.getD [] ++ bytes = f ++ extra →
      (q.frame.getD []).length < f.length → bytes.foldl CtlPort.receiveByte q = q.acceptFrame f
  | [], q, _, hf, hlt => by
    have hlen := congrArg List.length hf
    simp only [List.length_append, List.length_nil] at hlen
    omega
  | b :: bytes, q, hw, hf, hlt => by
    have hsplit : (q.frame.getD [] ++ [b]) ++ bytes = f ++ extra := by rw [← hf]; simp
    have hle : (q.frame.getD [] ++ [b]).length ≤ f.length := by simpa using hlt
    have hfront : (q.frame.getD [] ++ [b]).getD 0 0 = f.getD 0 0 := by
      rw [← getD_zero_append _ bytes (by simp), hsplit, getD_zero_append]
      exact List.ne_nil_of_length_pos (by omega)
    rw [List.foldl_cons]
    by_cases hfull : (q.frame.getD [] ++ [b]).length = f.length
    · obtain ⟨heq, -⟩ := List.append_inj hsplit hfull
      rw [receiveByte_of_complete hw (by rw [hfront, hdecl, hfull]) (by omega) (by omega), heq]
      refine foldl_receiveByte_of_not_write ?_ _
      unfold CtlPort.acceptFrame
      dsimp only
      split <;> simp
    · rw [receiveByte_of_partial hw (by rw [hfront, hdecl]; omega) (by rw [hfront]; omega) (by rw [hfront]; omega)]
      exact foldl_receiveByte_complete hmin hmax hdecl bytes _ hw hsplit (by show List.length (_ ++ _) < _; omega)

/-- Too few bytes for the declared length stay in progress behind those received before them. -/
theorem foldl_receiveByte_partial {f : List Byte} (hmin : 5 ≤ (f.getD 0 0).toNat) (hmax : (f.getD 0 0).toNat ≤ 96)
    (hlt : f.length < (f.getD 0 0).toNat) :
    ∀ (bytes : List Byte) (q : CtlPort), q.cycle = .write → q.frame.getD [] ++ bytes = f → bytes ≠ [] →
      bytes.foldl CtlPort.receiveByte q = { q with frame := some f }
  | [], q, _, _, hne => absurd rfl hne
  | b :: bytes, q, hw, hf, _ => by
    have hsplit : (q.frame.getD [] ++ [b]) ++ bytes = f := by rw [← hf]; simp
    have hle : (q.frame.getD [] ++ [b]).length ≤ f.length := by rw [← hsplit]; exact (List.prefix_append _ _).length_le
    have hfront : (q.frame.getD [] ++ [b]).getD 0 0 = f.getD 0 0 := by
      rw [← getD_zero_append _ bytes (by simp), hsplit]
    rw [List.foldl_cons, receiveByte_of_partial hw (by rw [hfront]; omega) (by rw [hfront]; exact hmin) (by rw [hfront]; exact hmax)]
    by_cases hlast : bytes = []
    · rw [hlast] at hsplit ⊢
      rw [← hsplit, List.append_nil, List.foldl_nil]
    · exact foldl_receiveByte_partial hmin hmax hlt bytes _ hw hsplit hlast

/-- A first byte that declares no frame's length discards the cycle with all its bytes. -/
theorem foldl_receiveByte_bad {q : CtlPort} {bytes : List Byte} (hw : q.cycle = .write) (hnone : q.frame = none) (hne : bytes ≠ [])
    (hbad : (bytes.getD 0 0).toNat < 5 ∨ 96 < (bytes.getD 0 0).toNat) :
    bytes.foldl CtlPort.receiveByte q = { q with frame := none, cycle := .ignored } := by
  obtain ⟨b, rest, rfl⟩ := List.exists_cons_of_ne_nil hne
  rw [List.foldl_cons, receiveByte_of_bad_length hw (by rw [hnone]; exact hbad)]
  exact foldl_receiveByte_of_not_write (by simp) rest

/-- Settles O8: the run of bytes is followed byte by byte, by whether the declared length is reached, not reached, or none. -/
theorem frameCompletionKeepsOrDrops : Obligations.FrameCompletionKeepsOrDrops := by
  intro c s bytes extra f hline
  have hexec {t : Part} (ht : s.part.modCtl c (fun q => bytes.foldl CtlPort.receiveByte q) = t) :
      exec (.frameCompletion c bytes) s = .next { s with part := t } := by
    refine ex (f := Part.frameCompletion c bytes) rfl (Eq.trans ?_ ht)
    unfold Part.frameCompletion
    rw [hline]
    rfl
  refine ⟨fun hw hf hlt hmin hmax hdecl => hexec (modCtl_congr ?complete), fun hw hnone hne hbad => hexec (modCtl_congr ?bad),
    fun hw hf hne hmin hmax hlt => hexec (modCtl_congr ?short), fun hw => hexec (modCtl_self ?outside)⟩
  case complete => exact foldl_receiveByte_complete hmin hmax hdecl bytes _ hw hf hlt
  case bad => exact foldl_receiveByte_bad hw hnone hne hbad
  case short => exact foldl_receiveByte_partial hmin hmax hlt bytes _ hw hf hne
  case outside => exact foldl_receiveByte_of_not_write hw bytes

/-! The end of a cycle and the removal of an entry (R138, R140). -/

theorem removeHead_cons {q : CtlPort} {e : OutEntry} {rest : List OutEntry} (h : q.outbound = e :: rest) :
    q.removeHead =
      { q with outbound := if q.lost = true then rest ++ [.notice .lost] else rest, lost := false, cycle := .ignored } := by
  unfold CtlPort.removeHead
  cases q.lost <;> simp [h]

/-- Settles O9: the end of a cycle is its definition; a removal acts where the head entry is being shifted out. -/
theorem cycleEndAndRemoval : Obligations.CycleEndAndRemoval := by
  intro c s
  have hexec : exec (.removal c) s = s.run (Part.removal c) := rfl
  refine ⟨rfl, fun e rest hcycle hout => ?removes, fun hcycle => ?keeps⟩
  case removes =>
    have hentry : (s.part.ctl c).cycle = .read true ∧ (s.part.ctl c).outbound ≠ [] := ⟨hcycle, by simp [hout]⟩
    exact ex hexec ((if_pos hentry).trans (modCtl_congr (removeHead_cons hout)))
  case keeps => exact ex hexec (if_neg fun h => hcycle h.1)

/-! The admission of notices (R139). -/

theorem free_eq_zero_iff (q : CtlPort) : q.free = 0 ↔ 16 ≤ q.outbound.length + q.reservations := by
  unfold CtlPort.free Config.outboundCapacity
  omega

section admission
variable {n : Notice} {q : CtlPort}

theorem admitNotice_of_detached (h : q.attached = false) : q.admitNotice n = q := by
  unfold CtlPort.admitNotice
  simp [h]

theorem admitNotice_of_disabled (hmask : n.kind ∉ q.mask) (hlost : n.kind ≠ .lost) : q.admitNotice n = q := by
  unfold CtlPort.admitNotice
  simp [hmask, hlost]

/-- At an attached port with the kind enabled, the room of the queue decides. -/
theorem admitNotice_of_enabled (ha : q.attached = true) (hmask : n.kind ∈ q.mask ∨ n.kind = .lost) :
    q.admitNotice n =
      if q.free = 0 then { q with lost := true } else { q with outbound := q.outbound ++ [.notice n] } := by
  have henabled : (q.mask.contains n.kind || decide (n.kind = .lost)) = true := by simpa using hmask
  unfold CtlPort.admitNotice
  rw [ha, henabled]
  rfl

end admission

/-- Settles O10: the four tests in their order. -/
theorem admissionTests : Obligations.AdmissionTests := by
  intro n q
  refine ⟨admitNotice_of_detached, fun _ => admitNotice_of_disabled, fun ha hmask hfull => ?dropped, fun ha hmask hroom => ?added⟩
  case dropped => rw [admitNotice_of_enabled ha hmask, if_pos ((free_eq_zero_iff q).2 hfull)]
  case added => rw [admitNotice_of_enabled ha hmask, if_neg (mt (free_eq_zero_iff q).1 (not_le.2 hroom))]

/-! The output lines (R1, R5, R8, R138, R141, R145). -/

theorem dataOut_of_not_driven {q : CtlPort} (h : q.cycle = .closed ∨ q.resetLine = true) (k : Nat) : q.dataOut k = none := by
  unfold CtlPort.dataOut
  obtain hc | hl := h
  · rw [hc]; split <;> rfl
  · exact if_pos hl

theorem dataOut_of_driven {q : CtlPort} (hc : q.cycle ≠ .closed) (hl : q.resetLine = false) (k : Nat) :
    q.dataOut k = some (q.offered.getD k 0xFF) := by
  unfold CtlPort.dataOut
  rw [hl]
  cases h : q.cycle with
  | closed => exact absurd h hc
  | direction => rfl
  | write => rfl
  | read entry => rfl
  | ignored => rfl

/-- Settles O11: each line is a test of the fields it reads, and the data output is one lemma where it is driven and one where not. -/
theorem attentionAndReadyLines : Obligations.AttentionAndReadyLines := by
  refine ⟨fun q => ⟨?attn, ?ready, fun asserted => ?level, dataOut_of_not_driven, fun hc hl => ⟨fun k b hb => ?offered, fun k hk => ?filler⟩⟩,
    fun r => ⟨decide_eq_true_iff, decide_eq_true_iff⟩⟩
  case attn => simp [CtlPort.attn]
  case ready => simp [CtlPort.rdy, Config.requestCapacity, and_assoc]
  case level => unfold CtlPort.lineHigh; cases q.polarity <;> rfl
  case offered => rw [dataOut_of_driven hc hl, List.getD_eq_getElem?_getD, hb]; rfl
  case filler => rw [dataOut_of_driven hc hl, List.getD_eq_default _ _ hk]

/-! The take of a request and its acceptance checks (R135, R136). -/

/-- The owner block's handler of a request kind. -/
def ReqKind.handler : ReqKind → Handler
  | .attach => attachRequest | .detach => detachRequest | .noticeMask => noticeMaskRequest
  | .groupRead => groupReadRequest | .groupAdd => groupAddRequest | .groupRemove => groupRemoveRequest
  | .groupSet => groupSetRequest | .groupDisband => groupDisbandRequest | .groupDigest => groupDigestRequest
  | .hold => holdRequest | .release => releaseRequest
  | .portRead => portReadRequest | .portSet => portSetRequest | .portClear => portClearRequest
  | .portGive => portGiveRequest | .portClaim => portClaimRequest
  | .consoleSet => consoleSetRequest | .talkRequest => talkRequestRequest | .talkStart => talkStartRequest
  | .talkEnd => talkEndRequest | .talkCancel => talkCancelRequest | .floorClear => floorClearRequest
  | .presetStore => presetStoreRequest | .presetRecall => presetRecallRequest | .presetErase => presetEraseRequest
  | .presetRead => presetReadRequest | .portsStore => portsStoreRequest

/-- The command of a kind is the take of a request of that kind, for its owner block. -/
theorem exec_command (k : ReqKind) (c : CtlNo) (s : State) : exec (k.command c) s = s.run (Part.serve k k.handler c) := by
  cases k <;> rfl

theorem exec_unknownKind (c : CtlNo) (s : State) : exec (.unknownKind c) s = s.run (Part.unknownKind c) := rfl

section refusal
variable {d : Part} {c : CtlNo} {f : List Byte}

theorem refusal_frameCheck (h : frameCheckOk f = false) : d.refusal c f = some .frameCheck := by
  unfold Part.refusal
  simp [h]

theorem refusal_unknownKind (h : frameCheckOk f = true) (hk : ReqKind.ofByte (frameKind f) = none) :
    d.refusal c f = some .unknownKind := by
  unfold Part.refusal
  simp [h, hk]

/-- With the check passed and the kind known, the last three checks decide in their order. -/
theorem refusal_of_kind {k : ReqKind} (h : frameCheckOk f = true) (hk : ReqKind.ofByte (frameKind f) = some k) :
    d.refusal c f =
      if k.lengthFits f = false then some .length
      else if (d.ctl c).attached = false ∧ k ≠ .attach then some .detached
      else if d.loading = true then some .starting else none := by
  unfold Part.refusal
  simp [h, hk]

end refusal

section take
variable {d : Part} {c : CtlNo} {f : List Byte} {st : Status}

/-- A taken frame that fails a check is answered with its status, and nothing else changes. -/
theorem serve_answered {k : ReqKind} (h : Handler) (ho : d.offers c f) (hk : ReqKind.ofByte (frameKind f) = some k)
    (hr : (d.takeFrame c).refusal c f = some st) : Part.serve k h c d = d.answered c f st [] := by
  rw [serve_of_refusal h ho hk hr, respond_takeFrame]

theorem unknownKind_answered (ho : d.offers c f) (hk : ReqKind.ofByte (frameKind f) = none)
    (hr : (d.takeFrame c).refusal c f = some st) : d.unknownKind c = d.answered c f st [] := by
  unfold Part.unknownKind
  simp only [takeable_of_offers ho, hk, hr, if_true, Option.getD_some]
  exact respond_takeFrame ..

end take

/-- Settles O12: the status of the refusal is read off check by check. -/
theorem acceptanceChecksInOrder : Obligations.AcceptanceChecksInOrder := by
  intro c s f ho
  refine ⟨fun k hk => ?known, fun hk => ?unknown⟩
  case known =>
    have hserve {st : Status} (hr : (s.part.takeFrame c).refusal c f = some st) :
        exec (k.command c) s = .next { s with part := s.part.answered c f st [] } :=
      ex (exec_command k c s) (serve_answered _ ho hk hr)
    refine ⟨fun hcheck => hserve (refusal_frameCheck hcheck), fun hcheck hlen => hserve ?length,
      fun hcheck hlen hdetached hne => hserve ?detached, fun hcheck hlen hatt hload => hserve ?starting⟩
    case length => rw [refusal_of_kind hcheck hk, if_pos hlen]
    case detached =>
      rw [refusal_of_kind hcheck hk, takeFrame_attached]
      simp [hlen, hdetached, hne]
    case starting =>
      have hnot : ¬ ((s.part.ctl c).attached = false ∧ k ≠ .attach) := fun h => h.2 (hatt.resolve_left (by simp [h.1]))
      rw [refusal_of_kind hcheck hk, takeFrame_attached, takeFrame_loading, if_neg hnot, if_pos hload]
      simp [hlen]
  case unknown =>
    refine ex (exec_unknownKind c s) (unknownKind_answered ho hk ?_)
    by_cases hcheck : frameCheckOk f = true
    · rw [if_pos hcheck, refusal_unknownKind hcheck hk]
    · rw [if_neg hcheck, refusal_frameCheck (by simpa using hcheck)]

/-! No take (R135). -/

theorem takeable_of_no_room {d : Part} {c : CtlNo}
    (h : (d.ctl c).buffer = [] ∨ 16 ≤ (d.ctl c).outbound.length + (d.ctl c).reservations) : d.takeable c = none := by
  unfold Part.takeable
  cases hb : (d.ctl c).buffer with
  | nil => rfl
  | cons f rest => exact if_pos ((free_eq_zero_iff _).2 (h.resolve_left (by simp [hb])))

/-- The frame that a take would take is the head of the buffer. -/
theorem takeable_head {d : Part} {c : CtlNo} {f : List Byte} (h : d.takeable c = some f) : (d.ctl c).buffer.head? = some f := by
  unfold Part.takeable at h
  cases hb : (d.ctl c).buffer with
  | nil => simp [hb] at h
  | cons x rest =>
    simp only [hb] at h
    split at h
    · exact nomatch h
    · simpa using h

theorem serve_of_not_takeable {d : Part} {c : CtlNo} (k : ReqKind) (h : Handler) (ht : d.takeable c = none) :
    Part.serve k h c d = d := by
  unfold Part.serve
  simp only [ht]

theorem serve_of_other_kind {d : Part} {c : CtlNo} {f : List Byte} {k : ReqKind} (h : Handler) (ht : d.takeable c = some f)
    (hk : ReqKind.ofByte (frameKind f) ≠ some k) : Part.serve k h c d = d := by
  unfold Part.serve
  simp only [ht]
  exact if_neg hk

theorem unknownKind_of_not_takeable {d : Part} {c : CtlNo} (ht : d.takeable c = none) : d.unknownKind c = d := by
  unfold Part.unknownKind
  simp only [ht]

theorem unknownKind_of_known {d : Part} {c : CtlNo} {f : List Byte} {k : ReqKind} (ht : d.takeable c = some f)
    (hk : ReqKind.ofByte (frameKind f) = some k) : d.unknownKind c = d := by
  unfold Part.unknownKind
  simp [ht, hk]

/-- Settles O13: there is no frame to take, or the one there is belongs to another row. -/
theorem noTakeWithoutRoom : Obligations.NoTakeWithoutRoom := by
  intro c s noRoom
  refine ⟨fun k hno => ex (exec_command k c s) ?serve, fun hno => ex (exec_unknownKind c s) ?unknown⟩
  case serve =>
    cases ht : s.part.takeable c with
    | none => exact serve_of_not_takeable _ _ ht
    | some f =>
      obtain hroom | ⟨x, hx, hk⟩ := hno
      · exact nomatch (takeable_of_no_room hroom).symm.trans ht
      · have hxf : x = f := Option.some_inj.1 (hx.symm.trans (takeable_head ht))
        exact serve_of_other_kind _ ht (hxf ▸ hk)
  case unknown =>
    cases ht : s.part.takeable c with
    | none => exact unknownKind_of_not_takeable ht
    | some f =>
      obtain hroom | ⟨x, k, hx, hk⟩ := hno
      · exact nomatch (takeable_of_no_room hroom).symm.trans ht
      · have hxf : x = f := Option.some_inj.1 (hx.symm.trans (takeable_head ht))
        exact unknownKind_of_known ht (hxf ▸ hk)

end Sys2Proof.Machine
end

section
/-!
PROOFS. The port's own requests and its resets (chapter 9): ATTACH (R142), DETACH (R144), NOTICE-MASK (R143) and the port-reset line
(R145, R146).
-/

namespace Sys2Proof.Machine

/-! Notices told to every port, beside other changes. -/

theorem told_none (d : Part) : d.told (fun _ => []) = d := by
  apply Part.ext_views <;> intros
  case hq r => rw [told_ctl, receives_nil]
  all_goals rfl

/-- What a part is told reads the run of notices only as far as each port receives it. -/
theorem told_congr {d : Part} {ns ms : CtlNo → List Notice} (h : ∀ r, (d.ctl r).receives (ns r) = (d.ctl r).receives (ms r)) :
    d.told ns = d.told ms := by
  apply Part.ext_views <;> intros
  case hq r => rw [told_ctl, told_ctl, h]
  all_goals rfl

/-- A change of a port that is told nothing may come before the notices or after them. -/
theorem told_modCtl {d : Part} {c : CtlNo} {ns : CtlNo → List Notice} (f : CtlPort → CtlPort) (h : ns c = []) :
    (d.modCtl c f).told ns = (d.told ns).modCtl c f := by
  apply Part.ext_views <;> intros
  case hq r =>
    rw [told_ctl, modCtl_ctl, modCtl_ctl, told_ctl, told_ctl]
    split
    · next hr => rw [hr, h, receives_nil, receives_nil]
    · rfl
  all_goals rfl

/-- A change of the requester's port that touches neither its buffer nor its reservations commutes with the take. -/
theorem modCtl_takeFrame {d : Part} {c : CtlNo} {f : CtlPort → CtlPort}
    (h : ∀ q : CtlPort, f { q with buffer := q.buffer.tail, reservations := q.reservations + 1 } =
      { f q with buffer := (f q).buffer.tail, reservations := (f q).reservations + 1 }) :
    (d.takeFrame c).modCtl c f = (d.modCtl c f).takeFrame c := by
  unfold Part.takeFrame
  rw [modCtl_modCtl, modCtl_modCtl]
  exact modCtl_congr (h _)

/-! ATTACH. -/

/-- ATTACH is the take of an ATTACH request (R135). -/
theorem exec_attach (c : CtlNo) (s : State) : exec (.attach c) s = s.run (Part.serve .attach attachRequest c) := rfl

/-- DETACH is the take of a DETACH request (R135). -/
theorem exec_detach (c : CtlNo) (s : State) : exec (.detach c) s = s.run (Part.serve .detach detachRequest c) := rfl

/-- NOTICE_MASK is the take of a NOTICE-MASK request (R135). -/
theorem exec_noticeMask (c : CtlNo) (s : State) :
    exec (.noticeMask c) s = s.run (Part.serve .noticeMask noticeMaskRequest c) := rfl

theorem attnMode_byte (b : Byte) (m : AttnMode) : AttnMode.ofByte b = some m ↔ m.code = b := by
  unfold AttnMode.ofByte
  by_cases h0 : b = 0
  · rw [if_pos h0, h0]; cases m <;> decide
  · by_cases h1 : b = 1
    · rw [if_neg h0, if_pos h1, h1]; cases m <;> decide
    · rw [if_neg h0, if_neg h1]
      refine iff_of_false nofun ?_
      cases m with
      | single => exact Ne.symm h0
      | dual => exact Ne.symm h1

/-- A byte above the last code of a two-valued parameter names no value. -/
theorem ofByte_eq_none {α : Type} {o : Option α} {code : α → Byte} {b : Byte} (hread : ∀ a, o = some a → code a = b)
    (hcode : ∀ a, (code a).toNat ≤ 1) (hb : 1 < b.toNat) : o = none := by
  cases o with
  | none => rfl
  | some a =>
    have hle := hcode a
    rw [hread a rfl] at hle
    omega

theorem attnMode_ofByte_eq_none {b : Byte} (h : 1 < b.toNat) : AttnMode.ofByte b = none :=
  ofByte_eq_none (fun m => (attnMode_byte b m).1) (by rintro (_ | _) <;> decide) h

theorem polarity_ofByte_eq_none {b : Byte} (h : 1 < b.toNat) : Polarity.ofByte b = none :=
  ofByte_eq_none (fun m => (polarity_byte b m).1) (by rintro (_ | _) <;> decide) h

/-- The sum of the powers of two of the numbers for which `a` holds. -/
def bitSum {n : Nat} (a : Fin n → Bool) : Nat := (List.finRange n).foldl (fun acc i => if a i then acc + 2 ^ i.val else acc) 0

theorem bitSum_succ {n : Nat} (a : Fin (n + 1) → Bool) :
    bitSum a = bitSum (fun i => a i.castSucc) + if a (Fin.last n) then 2 ^ n else 0 := by
  unfold bitSum
  rw [List.finRange_succ_last, List.foldl_append, List.foldl_map]
  cases h : a (Fin.last n) <;> simp [h]

theorem bitSum_lt {n : Nat} (a : Fin n → Bool) : bitSum a < 2 ^ n := by
  induction n with
  | zero => exact Nat.one_pos
  | succ n ih =>
    have hrest := ih fun i => a i.castSucc
    rw [bitSum_succ, Nat.pow_succ]
    split <;> omega

/-- Bit `i` of the sum is set exactly where `a` holds of `i`. -/
theorem testBit_bitSum {n : Nat} (a : Fin n → Bool) (i : Fin n) : (bitSum a).testBit i.val = a i := by
  induction n with
  | zero => exact i.elim0
  | succ n ih =>
    have hlt := bitSum_lt fun i : Fin n => a i.castSucc
    have hor : bitSum a = 2 ^ n * (if a (Fin.last n) then 1 else 0) + bitSum fun i => a i.castSucc := by
      rw [bitSum_succ]; split <;> omega
    rw [hor, Nat.testBit_two_pow_mul_add _ hlt]
    induction i using Fin.lastCases with
    | last => cases a (Fin.last n) <;> simp
    | cast i => simpa using ih (fun i => a i.castSucc) i

/-- The attached set has the bit of each attached controller and no other (R162). -/
theorem attachedSet_bit (d : Part) (r : CtlNo) : d.attachedSet.getLsbD r.val = (d.ctl r).attached := by
  have hset : d.attachedSet = BitVec.ofNat 8 (bitSum fun c => (d.ctl c).attached) := rfl
  have hr : r.val < 8 := by omega
  rw [hset, BitVec.getLsbD_ofNat, testBit_bitSum]
  simp [hr]

theorem attachedSet_toNat_lt (d : Part) : d.attachedSet.toNat < 64 :=
  Nat.lt_of_le_of_lt (Nat.mod_le _ _) (bitSum_lt (n := 6) fun c => (d.ctl c).attached)

/-- The port joined with its mode and polarity, and the others told where it was DETACHED (R142, R153). -/
def Part.attaching (d : Part) (c : CtlNo) (mode : AttnMode) (pol : Polarity) : Part :=
  (d.modCtl c fun q => { q with attached := true, mode := mode, polarity := pol }).told
    fun r => if (d.ctl c).attached = false ∧ r ≠ c then [.controller c true] else []

theorem attach_attaching (c : CtlNo) (mode : AttnMode) (pol : Polarity) (d : Part) :
    d.attach c mode pol = d.attaching c mode pol := by
  unfold Part.attach Part.attaching
  cases hatt : (d.ctl c).attached with
  | true => simpa using (told_none _).symm
  | false =>
    simp only [Bool.false_eq_true, if_false, true_and, notify_told]
    refine told_congr fun r => ?_
    by_cases hr : r = c
    · simp [toAll, Part.controllerRecipients, hr]
    · cases ha : (d.ctl r).attached with
      | true => simp [toAll, Part.controllerRecipients, hr, modCtl_ctl, ha]
      | false => simp [toAll, Part.controllerRecipients, hr, modCtl_ctl, ha, admitNotice_of_detached]

theorem attaching_attached (d : Part) (c : CtlNo) (mode : AttnMode) (pol : Polarity) (r : CtlNo) :
    ((d.attaching c mode pol).ctl r).attached = ((d.ctl r).attached || decide (r = c)) := by
  have hsame (ns : List Notice) (q : CtlPort) : (q.receives ns).attached = q.attached := by
    rw [(CtlPort.Notified.receives ns q).2.2.2]
  unfold Part.attaching
  rw [told_ctl, hsame, modCtl_ctl]
  by_cases hr : r = c <;> simp [hr]

theorem attaching_takeFrame (d : Part) (c : CtlNo) (mode : AttnMode) (pol : Polarity) :
    (d.takeFrame c).attaching c mode pol = (d.attaching c mode pol).takeFrame c := by
  unfold Part.attaching
  rw [takeFrame_attached, modCtl_takeFrame fun _ => rfl]
  exact told_modCtl _ (if_neg fun h => h.2 rfl)

/-- ATTACH with a mode and a polarity is answered with the set of the attached controllers, its own among them. -/
theorem attachRequest_ok {c : CtlNo} {tag : Byte} {ps : List Byte} {d : Part} {mode : AttnMode} {pol : Polarity}
    (hmode : mode.code = arg ps 0) (hpol : pol.code = arg ps 1) :
    attachRequest c tag ps d = replyOk [(d.attaching c mode pol).attachedSet] (d.attaching c mode pol) := by
  unfold attachRequest
  rw [(attnMode_byte _ _).2 hmode, (polarity_byte _ _).2 hpol]
  simp only [attach_attaching]

theorem attachRequest_badValue {c : CtlNo} {tag : Byte} {ps : List Byte} {d : Part}
    (h : 1 < (arg ps 0).toNat ∨ 1 < (arg ps 1).toNat) : attachRequest c tag ps d = reply .badValue d := by
  unfold attachRequest
  obtain hmode | hpol := h
  · rw [attnMode_ofByte_eq_none hmode]
  · rw [polarity_ofByte_eq_none hpol]
    cases AttnMode.ofByte (arg ps 0) <;> rfl

/-- Settles O14: the two replies of the owner block; the join commutes with the take, and the set in the response is read off the
ports as the join leaves them. -/
theorem attachJoins : Obligations.AttachJoins := by
  intro c s f hacc
  refine ⟨fun hbad => answered_of_reply (exec_attach c s) hacc (attachRequest_badValue hbad), fun mode pol hmode hpol => ?_⟩
  have hset (r : CtlNo) : (((s.part.attaching c mode pol).takeFrame c).ctl r).attached =
      ((s.part.ctl r).attached || decide (r = c)) := by rw [takeFrame_attached, attaching_attached]
  refine ⟨((s.part.attaching c mode pol).takeFrame c).attachedSet, fun r => ?bit, attachedSet_toNat_lt _,
    answered_of_reply (exec_attach c s) hacc ?reply⟩
  case bit => rw [attachedSet_bit, hset]
  case reply =>
    refine (attachRequest_ok hmode hpol).trans ?_
    rw [attaching_takeFrame]
    rfl

/-! NOTICE-MASK. -/

/-- A code names the notice kind that has it, and no other. -/
theorem noticeKind_byte (b : Byte) (k : NoticeKind) : NoticeKind.ofByte b = some k ↔ k.code = b := by
  constructor
  · intro h
    simpa using List.find?_some h
  · rintro rfl
    cases k <;> rfl

theorem noticeKind_code_injective : Function.Injective NoticeKind.code := fun k l h =>
  Option.some_inj.1 (((noticeKind_byte _ k).2 rfl).symm.trans ((noticeKind_byte _ l).2 h.symm))

/-- A list of codes names kinds exactly where it is the list of their codes. -/
theorem kindsOf_eq_some_iff {bs : List Byte} {ks : List NoticeKind} : kindsOf bs = some ks ↔ bs = ks.map NoticeKind.code := by
  induction bs generalizing ks with
  | nil => cases ks <;> simp [kindsOf]
  | cons b bs ih =>
    unfold kindsOf
    cases ks with
    | nil => cases NoticeKind.ofByte b <;> cases kindsOf bs <;> simp
    | cons k ks =>
      rw [List.map_cons, List.cons.injEq, ← ih, eq_comm (a := b), ← noticeKind_byte]
      cases NoticeKind.ofByte b <;> cases kindsOf bs <;> simp

theorem maskOf_eq (ks : List NoticeKind) : maskOf ks = NoticeKind.all.filter fun k => decide (k ∈ ks ∨ k = .lost) := by
  unfold maskOf
  simp

section noticeMask
variable {c : CtlNo} {tag : Byte} {ps : List Byte} {d : Part}

theorem noticeMaskRequest_badValue
    (h : (∃ b ∈ ps.drop 1, ∀ k : NoticeKind, k.code ≠ b) ∨ ¬ (ps.drop 1).Nodup) :
    noticeMaskRequest c tag ps d = reply .badValue d := by
  unfold noticeMaskRequest
  cases hks : kindsOf (ps.drop 1) with
  | none => rfl
  | some ks =>
    have hcodes := kindsOf_eq_some_iff.1 hks
    refine if_neg (mt (distinct_iff ks).1 fun hnodup => ?_)
    rw [hcodes] at h
    obtain ⟨b, hb, hno⟩ | htwice := h
    · obtain ⟨k, -, hk⟩ := List.mem_map.1 hb
      exact hno k hk
    · exact htwice (hnodup.map noticeKind_code_injective)

theorem noticeMaskRequest_ok {ks : List NoticeKind} (hks : ps.drop 1 = ks.map NoticeKind.code) (hnodup : ks.Nodup) :
    noticeMaskRequest c tag ps d =
      replyOk (byteOf (maskOf ks).length :: (maskOf ks).map NoticeKind.code) (d.modCtl c fun q => { q with mask := maskOf ks }) := by
  unfold noticeMaskRequest
  rw [kindsOf_eq_some_iff.2 hks]
  exact if_pos ((distinct_iff ks).2 hnodup)

end noticeMask

/-- Settles O16: the two replies of the owner block, told apart by whether the codes are those of distinct kinds. -/
theorem noticeMaskSetsTheMask : Obligations.NoticeMaskSetsTheMask := by
  intro c s f hacc
  refine ⟨fun hbad => answered_of_reply (exec_noticeMask c s) hacc (noticeMaskRequest_badValue hbad),
    fun ks hks hnodup => answered_of_reply (exec_noticeMask c s) hacc ?_⟩
  refine (noticeMaskRequest_ok hks hnodup).trans ?_
  rw [modCtl_takeFrame fun _ => rfl, maskOf_eq]
  rfl

/-! The controller port reset: by the port-reset line and by DETACH. -/

/-- What the link cycle of a port becomes by a reset, in the words of the statements. -/
theorem cycleAfterReset_eq (q : CtlPort) :
    q.cycleAfterReset =
      if q.cycle = .closed then .closed
      else if q.cycle = .direction ∧ q.resetLine = false then .direction
      else if q.cycle = .write ∧ q.frame = none ∧ q.resetLine = false then .write
      else .ignored := by
  unfold CtlPort.cycleAfterReset CtlPort.abandoned
  cases hl : q.resetLine with
  | true => simp
  | false => cases q.cycle <;> simp

/-- Under the asserted line, nothing of the port is left but the line and whether it is still selected. -/
theorem portReset_of_resetLine {q : CtlPort} (h : q.resetLine = true) :
    q.portReset = { CtlPort.reset with resetLine := true, cycle := if q.cycle = .closed then .closed else .ignored } := by
  unfold CtlPort.portReset CtlPort.cycleAfterReset CtlPort.abandoned
  simp [h, CtlPort.reset]

/-- Settles O5: the assertion is a controller port reset with the line asserted; the port it leaves is DETACHED, so that nothing of
the reset is told to it. -/
theorem portResetLineResetsThePort : Obligations.PortResetLineResetsThePort := by
  intro c s q
  have hresets := controllerPortReset_resets c (s.part.modCtl c fun q => { q with resetLine := true })
  have hport : ((s.part.modCtl c fun q => { q with resetLine := true }).ctl c).portReset = q := by
    rw [modCtl_ctl_self, portReset_of_resetLine rfl, ← ctl_reset c]
  rw [hport] at hresets
  refine ⟨⟨s.part.portResetAsserted c, rfl, ?detached, ?resets⟩, rfl⟩
  case detached => exact portResets_ctl c q _ _ hresets (by show (State.reset.part.ctl c).attached = false; rw [ctl_reset]; rfl)
  case resets =>
    refine portResets_congr c q _ _ s.part hresets ?_ (by rw [modCtl_ctl_self]) rfl
    rw [modCtl_modCtl]

/-- Settles O15: DETACH is a controller port reset whose own reservation is kept; the reset leaves the port with an empty queue, so
the response is its one entry. -/
theorem detachLeavesItsResponse : Obligations.DetachLeavesItsResponse := by
  intro c s f hacc q cycle
  have hresets := controllerPortReset_resets c (s.part.deferredAt c)
  have hctl : (s.part.deferredAt c).ctl c = { q with buffer := q.buffer.tail, reservations := q.reservations + 1 } :=
    modCtl_ctl_self ..
  rw [hctl] at hresets
  have hport : CtlPort.portReset { q with buffer := q.buffer.tail, reservations := q.reservations + 1 } =
      { State.reset.part.ctl c with
        resetLine := q.resetLine, cycle := cycle
        offered := if q.resetLine = true ∨ q.cycle = .closed then [] else q.offered.take 1 } := by
    unfold CtlPort.portReset
    rw [cycleAfterReset_eq, ctl_reset]
  rw [hport] at hresets
  have hleft := portResets_ctl c _ _ _ hresets (by rw [ctl_reset]; rfl)
  refine ⟨(s.part.deferredAt c).controllerPortReset c, ?resets, ?exec⟩
  case resets =>
    refine portResets_congr c _ _ _ s.part hresets ?_ (by rw [hctl]) rfl
    unfold Part.deferredAt
    rw [modCtl_modCtl]
  case exec =>
    have hreply : detachRequest c (frameTag f) (frameParams f) (s.part.deferredAt c) =
        { part := ((s.part.deferredAt c).controllerPortReset c).modCtl c fun q => { q with reservations := 1 },
          answer := some (.ok, []) } := rfl
    rw [responded_of_reply (exec_detach c s) hacc hreply]
    unfold Part.responded
    rw [modCtl_modCtl]
    refine congrArg (fun t => Host.Outcome.next { s with part := t }) (modCtl_congr ?_)
    rw [hleft, ctl_reset]
    rfl

end Sys2Proof.Machine
end

section
/-!
PROOFS. The layout requests that write (chapter 3): GROUP-ADD (R45, R46), GROUP-REMOVE (R47), GROUP-SET (R48), GROUP-DISBAND (R49) and
the dissolve expiry (R52). Each owner block's replies are said once; the relations of a join, a removal and an emptying are those of
the arbiter's laws, and what a membership report leaves of the groups is that it is quiet.
-/

namespace Sys2Proof.Machine

/-! What a membership report leaves as it is. -/

theorem Part.Quiet.claimOnJoin (d : Part) (g : GroupNo) (p : PortNo) : d.Quiet (d.claimOnJoin g p) := by
  unfold Part.claimOnJoin
  dsimp only
  split
  · exact .floorRequest d g p
  · exact .refl d

theorem Part.Quiet.reportJoin (d : Part) (g : GroupNo) (p : PortNo) : d.Quiet (d.reportJoin g p) := by
  unfold Part.reportJoin
  dsimp only
  split
  · exact .claimOnJoin d g p
  · exact .trans (.modPort d p _ (.key _)) (.claimOnJoin _ g p)

theorem Part.Quiet.removedRole (d : Part) (g : GroupNo) (p : PortNo) : d.Quiet (d.removedRole g p) := by
  unfold Part.removedRole
  split
  · exact .endNoHang d g _
  · exact .leaveIfWaiting d g p

theorem Part.Quiet.reportRemoval (d : Part) (g : GroupNo) (p : PortNo) : d.Quiet (d.reportRemoval g p) := by
  unfold Part.reportRemoval
  dsimp only
  refine .trans (.modPort d p _ (.removed _)) ?_
  split
  · exact .removedRole _ g p
  · exact .emptyFloor _ g

theorem setMembers_group (d : Part) (g h : GroupNo) (ms : List PortNo) :
    (d.setMembers g ms).group h = if h = g then { d.group g with members := ms } else d.group h := modGroup_group ..

/-- A join writes one member list, and of the other fields of the groups at most dissolve timers. -/
theorem joinGroup_group (d : Part) (g h : GroupNo) (p : PortNo) :
    (d.joinGroup g p).group h =
      { d.group h with
        members := if h = g then (d.group h).members ++ [p] else (d.group h).members
        dissolveTimer := ((d.joinGroup g p).group h).dissolveTimer } := by
  obtain ⟨-, hgroup, -⟩ := Part.Quiet.reportJoin (d.setMembers g ((d.group g).members ++ [p])) g p
  have hkeep := hgroup h
  rw [setMembers_group] at hkeep
  unfold Part.joinGroup
  by_cases hh : h = g
  · subst hh; simpa using hkeep
  · simpa [hh] using hkeep

/-- A removal writes one member list, and of the other fields of the groups at most dissolve timers. -/
theorem leaveGroup_group (d : Part) (g h : GroupNo) (p : PortNo) :
    (d.leaveGroup g p).group h =
      { d.group h with
        members := if h = g then (d.group h).members.filter (fun m => m ≠ p) else (d.group h).members
        dissolveTimer := ((d.leaveGroup g p).group h).dissolveTimer } := by
  obtain ⟨-, hgroup, -⟩ := Part.Quiet.reportRemoval (d.setMembers g ((d.group g).members.filter fun m => m ≠ p)) g p
  have hkeep := hgroup h
  rw [setMembers_group] at hkeep
  unfold Part.leaveGroup
  by_cases hh : h = g
  · subst hh; simpa using hkeep
  · simpa [hh] using hkeep

/-- The end of a removal of all members of a group is quiet, but for the member list that was written before it. -/
theorem Part.Quiet.removeAll (d : Part) (g : GroupNo) : (d.setMembers g []).Quiet (d.removeAll g) := by
  unfold Part.removeAll
  exact .trans (.each _ _ (fun p e => .modPort e p _ (.removed _)) _) (.emptyFloor _ g)

theorem removeAll_group (d : Part) (g h : GroupNo) :
    (d.removeAll g).group h =
      { d.group h with
        members := if h = g then [] else (d.group h).members
        dissolveTimer := ((d.removeAll g).group h).dissolveTimer } := by
  obtain ⟨-, hgroup, -⟩ := Part.Quiet.removeAll d g
  have hkeep := hgroup h
  rw [setMembers_group] at hkeep
  by_cases hh : h = g
  · subst hh; simpa using hkeep
  · simpa [hh] using hkeep

theorem revised_group (d : Part) (g h : GroupNo) (cause : LayoutCause) :
    (d.revised g cause).group h =
      if h = g then
        { d.group g with revision := (d.group g).revision + 1 }.timed (decide ((d.floor g).state = FloorState.free))
      else d.group h := by
  unfold Part.revised
  rw [told_group, modGroup_group]

theorem revised_revision (d : Part) (g h : GroupNo) (cause : LayoutCause) :
    ((d.revised g cause).group h).revision = if h = g then (d.group h).revision + 1 else (d.group h).revision := by
  rw [revised_group]
  split
  · next hh => rw [hh]; rfl
  · rfl

@[simp] theorem joinGroup_revision (d : Part) (g h : GroupNo) (p : PortNo) :
    ((d.joinGroup g p).group h).revision = (d.group h).revision := by rw [joinGroup_group]

@[simp] theorem leaveGroup_revision (d : Part) (g h : GroupNo) (p : PortNo) :
    ((d.leaveGroup g p).group h).revision = (d.group h).revision := by rw [leaveGroup_group]

@[simp] theorem removeAll_revision (d : Part) (g h : GroupNo) : ((d.removeAll g).group h).revision = (d.group h).revision := by
  rw [removeAll_group]

@[simp] theorem taking_revision (d : Part) (c : CtlNo) (g h : GroupNo) :
    ((d.taking c g).group h).revision = (d.group h).revision := renewed_revision ..

/-! Answers. -/

/-- A STALE refusal as its status and data. -/
theorem replyStale_bytes (g : GroupNo) (d : Part) :
    replyStale g d = { part := d, answer := some (.stale, asBytes (twoBytes (d.group g).revision.toNat)) } := by
  unfold replyStale
  rw [wordBytes_two]

/-- The OK of a request that changed a group carries the revision after it. -/
theorem replyRevision_revised (g : GroupNo) (cause : LayoutCause) (d : Part) :
    replyRevision g (d.bumpRevision g cause) =
      replyOk (asBytes (twoBytes ((d.group g).revision + 1).toNat)) (d.revised g cause) := by
  unfold replyRevision
  rw [bumpRevision_revised, revised_revision, if_pos rfl, wordBytes_two]

/-- A refusal by an owner block whose only effect is the renewal of the requester's own hold (R43, R64). -/
theorem refused_of_reply {i : Instr} {k : ReqKind} {h : Handler} {c : CtlNo} {s : State} {f : List Byte} {g : GroupNo}
    {st : Status} {data : List Byte} (hexec : exec i s = s.run (Part.serve k h c)) (hacc : s.part.accepts c k f)
    (hreply : h c (frameTag f) (frameParams f) (s.part.takeFrame c) =
      { part := (s.part.takeFrame c).renewed c g, answer := some (st, data) }) :
    exec i s = .next { s with part := (s.part.renewed c g).answered c f st data } :=
  answered_of_reply hexec hacc (hreply.trans (by rw [renewed_takeFrame]))

/-! The four requests. -/

theorem exec_groupAdd (c : CtlNo) (s : State) : exec (.groupAdd c) s = s.run (Part.serve .groupAdd groupAddRequest c) := rfl
theorem exec_groupRemove (c : CtlNo) (s : State) :
    exec (.groupRemove c) s = s.run (Part.serve .groupRemove groupRemoveRequest c) := rfl
theorem exec_groupSet (c : CtlNo) (s : State) : exec (.groupSet c) s = s.run (Part.serve .groupSet groupSetRequest c) := rfl
theorem exec_groupDisband (c : CtlNo) (s : State) :
    exec (.groupDisband c) s = s.run (Part.serve .groupDisband groupDisbandRequest c) := rfl

/-- A hold of another controller bars the request from a group that the port would leave or join (R43 step 2). -/
def Part.addHeld (d : Part) (g : GroupNo) (p : PortNo) (c : CtlNo) : Prop :=
  d.heldAgainst g c ∨ ∃ o, d.groupOf p = some o ∧ d.heldAgainst o c

section add
variable {c : CtlNo} {tag : Byte} {ps : List Byte} {d : Part} {g : GroupNo} {p : PortNo}

theorem groupAddRequest_noGroup (h : 12 ≤ (arg ps 0).toNat) : groupAddRequest c tag ps d = reply .badValue d := by
  unfold groupAddRequest
  rw [numOf_none h, touchNamed_none h]

theorem groupAddRequest_noPort (hg : (arg ps 0).toNat = g.val) (h : 24 ≤ (arg ps 1).toNat) :
    groupAddRequest c tag ps d = reply .badValue (d.renewed c g) := by
  unfold groupAddRequest
  rw [numOf_some hg, numOf_none h, touchNamed_some hg]

/-- With a group and a port named, the checks run on the part with the requester's own hold renewed. -/
theorem groupAddRequest_named (hg : (arg ps 0).toNat = g.val) (hp : (arg ps 1).toNat = p.val) :
    groupAddRequest c tag ps d =
      let e := d.renewed c g
      if (e.group g).heldByOther c || e.heldByOther? c (e.otherGroup g p) then reply .held e
      else if (e.group g).revision ≠ wordOf (arg ps 2) (arg ps 3) then replyStale g e
      else if (e.group g).members.contains p then reply .state e
      else replyOk ((e.groupAdd g p).addedBytes g (e.otherGroup g p)) (e.groupAdd g p) := by
  unfold groupAddRequest
  rw [numOf_some hg, numOf_some hp, touchNamed_some hg]

theorem addHeld_iff : ((((d.renewed c g).group g).heldByOther c || (d.renewed c g).heldByOther? c ((d.renewed c g).otherGroup g p))
    = true) ↔ d.addHeld g p c := by
  rw [heldBy2]
  simp only [held_renewed, renewed_groupOf]
  rfl

theorem groupAddRequest_held (hg : (arg ps 0).toNat = g.val) (hp : (arg ps 1).toNat = p.val) (h : d.addHeld g p c) :
    groupAddRequest c tag ps d = reply .held (d.renewed c g) :=
  (groupAddRequest_named hg hp).trans (if_pos (addHeld_iff.2 h))

theorem groupAddRequest_stale (hg : (arg ps 0).toNat = g.val) (hp : (arg ps 1).toNat = p.val) (h : ¬ d.addHeld g p c)
    (hrev : (d.group g).revision ≠ wordOf (arg ps 2) (arg ps 3)) :
    groupAddRequest c tag ps d =
      { part := d.renewed c g, answer := some (.stale, asBytes (twoBytes (d.group g).revision.toNat)) } := by
  rw [groupAddRequest_named hg hp]
  dsimp only
  rw [if_neg (mt addHeld_iff.1 h), renewed_revision, if_pos hrev, replyStale_bytes, renewed_revision]

/-- With the first checks passed, membership of the group itself is the last (R45). -/
theorem groupAddRequest_current (hg : (arg ps 0).toNat = g.val) (hp : (arg ps 1).toNat = p.val) (h : ¬ d.addHeld g p c)
    (hrev : (d.group g).revision = wordOf (arg ps 2) (arg ps 3)) :
    groupAddRequest c tag ps d =
      let e := d.renewed c g
      if (d.group g).members.contains p then reply .state e
      else replyOk ((e.groupAdd g p).addedBytes g (e.otherGroup g p)) (e.groupAdd g p) := by
  rw [groupAddRequest_named hg hp]
  dsimp only
  rw [if_neg (mt addHeld_iff.1 h), renewed_revision, if_neg (not_not_intro hrev), renewed_members]

theorem groupAddRequest_state (hg : (arg ps 0).toNat = g.val) (hp : (arg ps 1).toNat = p.val) (h : ¬ d.addHeld g p c)
    (hrev : (d.group g).revision = wordOf (arg ps 2) (arg ps 3)) (hm : p ∈ (d.group g).members) :
    groupAddRequest c tag ps d = reply .state (d.renewed c g) :=
  (groupAddRequest_current hg hp h hrev).trans (if_pos (List.contains_iff_mem.2 hm))

theorem groupAddRequest_ok (hg : (arg ps 0).toNat = g.val) (hp : (arg ps 1).toNat = p.val) (h : ¬ d.addHeld g p c)
    (hrev : (d.group g).revision = wordOf (arg ps 2) (arg ps 3)) (hm : p ∉ (d.group g).members) :
    groupAddRequest c tag ps d =
      let e := d.renewed c g
      replyOk ((e.groupAdd g p).addedBytes g (e.otherGroup g p)) (e.groupAdd g p) :=
  (groupAddRequest_current hg hp h hrev).trans (if_neg (mt List.contains_iff_mem.1 hm))

end add

section remove
variable {c : CtlNo} {tag : Byte} {ps : List Byte} {d : Part} {g : GroupNo} {p : PortNo}

theorem groupRemoveRequest_noGroup (h : 12 ≤ (arg ps 0).toNat) : groupRemoveRequest c tag ps d = reply .badValue d := by
  unfold groupRemoveRequest
  rw [numOf_none h, touchNamed_none h]

theorem groupRemoveRequest_noPort (hg : (arg ps 0).toNat = g.val) (h : 24 ≤ (arg ps 1).toNat) :
    groupRemoveRequest c tag ps d = reply .badValue (d.renewed c g) := by
  unfold groupRemoveRequest
  rw [numOf_some hg, numOf_none h, touchNamed_some hg]

theorem groupRemoveRequest_named (hg : (arg ps 0).toNat = g.val) (hp : (arg ps 1).toNat = p.val) :
    groupRemoveRequest c tag ps d =
      let e := d.renewed c g
      if (e.group g).heldByOther c then reply .held e
      else if (e.group g).revision ≠ wordOf (arg ps 2) (arg ps 3) then replyStale g e
      else if (e.group g).members.contains p then replyRevision g (e.groupRemove g p)
      else reply .notMember e := by
  unfold groupRemoveRequest
  rw [numOf_some hg, numOf_some hp, touchNamed_some hg]

/-- The hold check reads the holder, which the renewal leaves. -/
theorem heldByOther_renewed_iff {k : CtlNo} : ((d.renewed c g).group g).heldByOther k = true ↔ d.heldAgainst g k := by
  rw [held_iff, held_renewed]

theorem groupRemoveRequest_held (hg : (arg ps 0).toNat = g.val) (hp : (arg ps 1).toNat = p.val) (h : d.heldAgainst g c) :
    groupRemoveRequest c tag ps d = reply .held (d.renewed c g) :=
  (groupRemoveRequest_named hg hp).trans (if_pos (heldByOther_renewed_iff.2 h))

theorem groupRemoveRequest_stale (hg : (arg ps 0).toNat = g.val) (hp : (arg ps 1).toNat = p.val) (h : ¬ d.heldAgainst g c)
    (hrev : (d.group g).revision ≠ wordOf (arg ps 2) (arg ps 3)) :
    groupRemoveRequest c tag ps d =
      { part := d.renewed c g, answer := some (.stale, asBytes (twoBytes (d.group g).revision.toNat)) } := by
  rw [groupRemoveRequest_named hg hp]
  dsimp only
  rw [if_neg (mt heldByOther_renewed_iff.1 h), renewed_revision, if_pos hrev, replyStale_bytes, renewed_revision]

theorem groupRemoveRequest_current (hg : (arg ps 0).toNat = g.val) (hp : (arg ps 1).toNat = p.val) (h : ¬ d.heldAgainst g c)
    (hrev : (d.group g).revision = wordOf (arg ps 2) (arg ps 3)) :
    groupRemoveRequest c tag ps d =
      if (d.group g).members.contains p then replyRevision g ((d.renewed c g).groupRemove g p)
      else reply .notMember (d.renewed c g) := by
  rw [groupRemoveRequest_named hg hp]
  dsimp only
  rw [if_neg (mt heldByOther_renewed_iff.1 h), renewed_revision, if_neg (not_not_intro hrev), renewed_members]

theorem groupRemoveRequest_notMember (hg : (arg ps 0).toNat = g.val) (hp : (arg ps 1).toNat = p.val) (h : ¬ d.heldAgainst g c)
    (hrev : (d.group g).revision = wordOf (arg ps 2) (arg ps 3)) (hm : p ∉ (d.group g).members) :
    groupRemoveRequest c tag ps d = reply .notMember (d.renewed c g) :=
  (groupRemoveRequest_current hg hp h hrev).trans (if_neg (mt List.contains_iff_mem.1 hm))

theorem groupRemoveRequest_ok (hg : (arg ps 0).toNat = g.val) (hp : (arg ps 1).toNat = p.val) (h : ¬ d.heldAgainst g c)
    (hrev : (d.group g).revision = wordOf (arg ps 2) (arg ps 3)) (hm : p ∈ (d.group g).members) :
    groupRemoveRequest c tag ps d =
      replyOk (asBytes (twoBytes ((d.group g).revision + 1).toNat)) (((d.renewed c g).leaveGroup g p).revised g .request) := by
  refine (groupRemoveRequest_current hg hp h hrev).trans ((if_pos (List.contains_iff_mem.2 hm)).trans ?_)
  unfold Part.groupRemove
  rw [replyRevision_revised, leaveGroup_revision, renewed_revision]

end remove

section set
variable {c : CtlNo} {tag : Byte} {ps : List Byte} {d : Part} {g : GroupNo}

/-- One of the four settings is outside its range (R40, R48). -/
abbrev BadSettings (hang window preempt : Byte) : Prop :=
  30 < hang.toNat ∨ window.toNat = 0 ∨ 10 < window.toNat ∨ 4 < preempt.toNat

/-- The settings that four bytes carry. -/
def settingsOf (hang window preempt dissolve : Byte) : GroupSettings :=
  { hang := hang.toNat, window := window.toNat, preempt := preempt.toNat, dissolve := dissolve.toNat }

theorem settingsOf_legal_iff (b0 b1 b2 b3 : Byte) : (settingsOf b0 b1 b2 b3).legal = true ↔ ¬ BadSettings b0 b1 b2 := by
  unfold settingsOf GroupSettings.legal
  simp only [Bool.and_eq_true, decide_eq_true_eq]
  omega

theorem groupSettings_ofBytes_none {b0 b1 b2 : Byte} (b3 : Byte) (h : BadSettings b0 b1 b2) :
    GroupSettings.ofBytes b0 b1 b2 b3 = none := if_neg fun hl => (settingsOf_legal_iff b0 b1 b2 b3).1 hl h

theorem groupSettings_ofBytes_some {b0 b1 b2 : Byte} (b3 : Byte) (h : ¬ BadSettings b0 b1 b2) :
    GroupSettings.ofBytes b0 b1 b2 b3 = some (settingsOf b0 b1 b2 b3) := if_pos ((settingsOf_legal_iff b0 b1 b2 b3).2 h)

theorem groupSetRequest_noGroup (h : 12 ≤ (arg ps 0).toNat) : groupSetRequest c tag ps d = reply .badValue d := by
  unfold groupSetRequest
  rw [numOf_none h, touchNamed_none h]

theorem groupSetRequest_bad (hg : (arg ps 0).toNat = g.val) (h : BadSettings (arg ps 1) (arg ps 2) (arg ps 3)) :
    groupSetRequest c tag ps d = reply .badValue (d.renewed c g) := by
  unfold groupSetRequest
  rw [numOf_some hg, groupSettings_ofBytes_none _ h, touchNamed_some hg]

theorem groupSetRequest_named (hg : (arg ps 0).toNat = g.val) (hlegal : ¬ BadSettings (arg ps 1) (arg ps 2) (arg ps 3)) :
    groupSetRequest c tag ps d =
      let e := d.renewed c g
      if (e.group g).heldByOther c then reply .held e
      else if (e.group g).revision ≠ wordOf (arg ps 5) (arg ps 6) then replyStale g e
      else replyRevision g (e.groupSet g (settingsOf (arg ps 1) (arg ps 2) (arg ps 3) (arg ps 4))) := by
  unfold groupSetRequest
  rw [numOf_some hg, groupSettings_ofBytes_some _ hlegal, touchNamed_some hg]

theorem groupSetRequest_held (hg : (arg ps 0).toNat = g.val) (hlegal : ¬ BadSettings (arg ps 1) (arg ps 2) (arg ps 3))
    (h : d.heldAgainst g c) : groupSetRequest c tag ps d = reply .held (d.renewed c g) :=
  (groupSetRequest_named hg hlegal).trans (if_pos (heldByOther_renewed_iff.2 h))

theorem groupSetRequest_stale (hg : (arg ps 0).toNat = g.val) (hlegal : ¬ BadSettings (arg ps 1) (arg ps 2) (arg ps 3))
    (h : ¬ d.heldAgainst g c) (hrev : (d.group g).revision ≠ wordOf (arg ps 5) (arg ps 6)) :
    groupSetRequest c tag ps d =
      { part := d.renewed c g, answer := some (.stale, asBytes (twoBytes (d.group g).revision.toNat)) } := by
  rw [groupSetRequest_named hg hlegal]
  dsimp only
  rw [if_neg (mt heldByOther_renewed_iff.1 h), renewed_revision, if_pos hrev, replyStale_bytes, renewed_revision]

theorem groupSetRequest_ok (hg : (arg ps 0).toNat = g.val) (hlegal : ¬ BadSettings (arg ps 1) (arg ps 2) (arg ps 3))
    (h : ¬ d.heldAgainst g c) (hrev : (d.group g).revision = wordOf (arg ps 5) (arg ps 6)) :
    groupSetRequest c tag ps d =
      replyOk (asBytes (twoBytes ((d.group g).revision + 1).toNat))
        (((d.renewed c g).modGroup g fun r =>
          { r with settings := settingsOf (arg ps 1) (arg ps 2) (arg ps 3) (arg ps 4) }).revised g .request) := by
  rw [groupSetRequest_named hg hlegal]
  dsimp only
  rw [if_neg (mt heldByOther_renewed_iff.1 h), renewed_revision, if_neg (not_not_intro hrev)]
  unfold Part.groupSet
  rw [replyRevision_revised, modGroup_group_self, renewed_revision]

end set

section disband
variable {c : CtlNo} {tag : Byte} {ps : List Byte} {d : Part} {g : GroupNo}

theorem groupDisbandRequest_noGroup (h : 12 ≤ (arg ps 0).toNat) : groupDisbandRequest c tag ps d = reply .badValue d := by
  unfold groupDisbandRequest
  rw [numOf_none h, touchNamed_none h]

theorem groupDisbandRequest_named (hg : (arg ps 0).toNat = g.val) :
    groupDisbandRequest c tag ps d =
      let e := d.renewed c g
      if (e.group g).heldByOther c then reply .held e
      else if (e.group g).revision ≠ wordOf (arg ps 1) (arg ps 2) then replyStale g e
      else replyRevision g (e.groupDisband g) := by
  unfold groupDisbandRequest
  rw [numOf_some hg, touchNamed_some hg]

theorem groupDisbandRequest_held (hg : (arg ps 0).toNat = g.val) (h : d.heldAgainst g c) :
    groupDisbandRequest c tag ps d = reply .held (d.renewed c g) :=
  (groupDisbandRequest_named hg).trans (if_pos (heldByOther_renewed_iff.2 h))

theorem groupDisbandRequest_stale (hg : (arg ps 0).toNat = g.val) (h : ¬ d.heldAgainst g c)
    (hrev : (d.group g).revision ≠ wordOf (arg ps 1) (arg ps 2)) :
    groupDisbandRequest c tag ps d =
      { part := d.renewed c g, answer := some (.stale, asBytes (twoBytes (d.group g).revision.toNat)) } := by
  rw [groupDisbandRequest_named hg]
  dsimp only
  rw [if_neg (mt heldByOther_renewed_iff.1 h), renewed_revision, if_pos hrev, replyStale_bytes, renewed_revision]

theorem groupDisbandRequest_ok (hg : (arg ps 0).toNat = g.val) (h : ¬ d.heldAgainst g c)
    (hrev : (d.group g).revision = wordOf (arg ps 1) (arg ps 2)) :
    groupDisbandRequest c tag ps d =
      replyOk (asBytes (twoBytes ((d.group g).revision + 1).toNat))
        ((((d.renewed c g).modGroup g fun r => { r with settings := GroupSettings.default }).removeAll g).revised g .request) := by
  rw [groupDisbandRequest_named hg]
  dsimp only
  rw [if_neg (mt heldByOther_renewed_iff.1 h), renewed_revision, if_neg (not_not_intro hrev)]
  unfold Part.groupDisband
  rw [replyRevision_revised, removeAll_revision, modGroup_group_self, renewed_revision]

end disband

/-- Settles O18: every refusal of the four owner blocks is one of their replies. -/
theorem layoutRequestsRefuseInOrder : Obligations.LayoutRequestsRefuseInOrder := by
  intro c s f
  refine ⟨fun hacc => ⟨?addNoGroup, fun g hg => ⟨?addNoPort, fun p hp => ⟨?addHeld, ?addStale, ?addState⟩⟩⟩,
    fun hacc => ⟨?removeNoGroup, fun g hg => ⟨?removeNoPort, fun p hp => ⟨?removeHeld, ?removeStale, ?removeNotMember⟩⟩⟩,
    fun hacc => ⟨?setNoGroup, fun g hg => ⟨?setBad, ?setHeld, ?setStale⟩⟩,
    fun hacc => ⟨?disbandNoGroup, fun g hg => ⟨?disbandHeld, ?disbandStale⟩⟩⟩
  case addNoGroup => exact fun h => answered_of_reply (exec_groupAdd c s) hacc (groupAddRequest_noGroup h)
  case addNoPort => exact fun h => refused_of_reply (exec_groupAdd c s) hacc (groupAddRequest_noPort hg h)
  case addHeld => exact fun h => refused_of_reply (exec_groupAdd c s) hacc (groupAddRequest_held hg hp h)
  case addStale => exact fun h hrev => refused_of_reply (exec_groupAdd c s) hacc (groupAddRequest_stale hg hp h hrev)
  case addState => exact fun h hrev hm => refused_of_reply (exec_groupAdd c s) hacc (groupAddRequest_state hg hp h hrev hm)
  case removeNoGroup => exact fun h => answered_of_reply (exec_groupRemove c s) hacc (groupRemoveRequest_noGroup h)
  case removeNoPort => exact fun h => refused_of_reply (exec_groupRemove c s) hacc (groupRemoveRequest_noPort hg h)
  case removeHeld => exact fun h => refused_of_reply (exec_groupRemove c s) hacc (groupRemoveRequest_held hg hp h)
  case removeStale => exact fun h hrev => refused_of_reply (exec_groupRemove c s) hacc (groupRemoveRequest_stale hg hp h hrev)
  case removeNotMember =>
    exact fun h hrev hm => refused_of_reply (exec_groupRemove c s) hacc (groupRemoveRequest_notMember hg hp h hrev hm)
  case setNoGroup => exact fun h => answered_of_reply (exec_groupSet c s) hacc (groupSetRequest_noGroup h)
  case setBad => exact fun h => refused_of_reply (exec_groupSet c s) hacc (groupSetRequest_bad hg h)
  case setHeld => exact fun hl h => refused_of_reply (exec_groupSet c s) hacc (groupSetRequest_held hg hl h)
  case setStale => exact fun hl h hrev => refused_of_reply (exec_groupSet c s) hacc (groupSetRequest_stale hg hl h hrev)
  case disbandNoGroup => exact fun h => answered_of_reply (exec_groupDisband c s) hacc (groupDisbandRequest_noGroup h)
  case disbandHeld => exact fun h => refused_of_reply (exec_groupDisband c s) hacc (groupDisbandRequest_held hg h)
  case disbandStale => exact fun h hrev => refused_of_reply (exec_groupDisband c s) hacc (groupDisbandRequest_stale hg h hrev)

/-! GROUP-ADD carried out. -/

theorem otherGroup_of_none {d : Part} {g : GroupNo} {p : PortNo} (h : d.groupOf p = none) : d.otherGroup g p = none := by
  unfold Part.otherGroup
  rw [h]

theorem otherGroup_of_some {d : Part} {g o : GroupNo} {p : PortNo} (h : d.groupOf p = some o) (hne : o ≠ g) :
    d.otherGroup g p = some o := by
  unfold Part.otherGroup
  rw [h]
  exact if_neg hne

/-- The data of the OK to an unassigned port's join: the new revision, and no old group. -/
theorem addedBytes_none (d : Part) (g : GroupNo) :
    d.addedBytes g none = asBytes (twoBytes (d.group g).revision.toNat ++ [255, 0, 0]) := by
  unfold Part.addedBytes
  rw [asBytes_append, ← wordBytes_two]
  rfl

/-- The data of the OK to a move: the new revision, the old group and its new revision. -/
theorem addedBytes_some (d : Part) (g o : GroupNo) :
    d.addedBytes g (some o) =
      asBytes (twoBytes (d.group g).revision.toNat ++ o.val :: twoBytes (d.group o).revision.toNat) := by
  unfold Part.addedBytes
  rw [asBytes_append, ← wordBytes_two]
  congr 1
  show groupByte o :: wordBytes _ = asBytes (o.val :: _)
  rw [wordBytes_two]
  rfl

/-- Settles O19: a join or a move is one reply of the owner block; what becomes of the part is the join, after the removal from the
old group and its revision where there is one. -/
theorem groupAddJoinsOrMoves : Obligations.GroupAddJoinsOrMoves := by
  intro c s f g p hacc hg hp hheld hold hrev hm
  have hfree : ¬ (s.part.deferredAt c).addHeld g p c := fun h =>
    h.elim hheld fun ⟨o, ho, hheldO⟩ => hold o ho hheldO
  have hreply := groupAddRequest_ok (tag := frameTag f) (d := s.part.deferredAt c) hg hp hfree hrev hm
  refine ⟨fun hnone => ?joins, fun o ho => ?moves⟩
  case joins =>
    have hother : (s.part.taking c g).otherGroup g p = none := otherGroup_of_none ((renewed_groupOf ..).trans hnone)
    refine ⟨_, joinGroup_joins g p (s.part.taking c g), responded_of_reply (exec_groupAdd c s) hacc (hreply.trans ?_)⟩
    change replyOk (((s.part.taking c g).groupAdd g p).addedBytes g ((s.part.taking c g).otherGroup g p))
      ((s.part.taking c g).groupAdd g p) = _
    unfold Part.groupAdd
    rw [hother, Part.moveOut, addedBytes_none, bumpRevision_revised, revised_revision, if_pos rfl, joinGroup_revision,
      taking_revision]
    rfl
  case moves =>
    have hne : g ≠ o := fun h => hm (h ▸ mem_of_groupOf ho)
    have hother : (s.part.taking c g).otherGroup g p = some o :=
      otherGroup_of_some ((renewed_groupOf ..).trans ho) hne.symm
    refine ⟨_, _, leaveGroup_removes o p (s.part.taking c g), joinGroup_joins g p _,
      responded_of_reply (exec_groupAdd c s) hacc (hreply.trans ?_)⟩
    change replyOk (((s.part.taking c g).groupAdd g p).addedBytes g ((s.part.taking c g).otherGroup g p))
      ((s.part.taking c g).groupAdd g p) = _
    unfold Part.groupAdd
    rw [hother, Part.moveOut, addedBytes_some, bumpRevision_revised, bumpRevision_revised]
    simp only [revised_revision, if_true, joinGroup_revision, leaveGroup_revision, taking_revision, hne, hne.symm, if_false]
    rfl

/-! The other requests carried out. -/

/-- Settles O20: the removal is one reply of the owner block, and the arbiter's law says where the floor goes. -/
theorem groupRemoveTakesThePortOut : Obligations.GroupRemoveTakesThePortOut := by
  intro c s f g p hacc hg hp hheld hrev hm
  exact ⟨_, leaveGroup_removes g p (s.part.taking c g),
    responded_of_reply (exec_groupRemove c s) hacc (groupRemoveRequest_ok hg hp hheld hrev hm)⟩

/-- Settles O21: the reply of the owner block for legal settings. -/
theorem groupSetWritesTheSettings : Obligations.GroupSetWritesTheSettings := by
  intro c s f g hacc hg hhang hwin hwin' hpre hheld hrev set
  have hlegal : ¬ BadSettings (arg (frameParams f) 1) (arg (frameParams f) 2) (arg (frameParams f) 3) := by
    rintro (h | h | h | h)
    · exact absurd hhang (not_le.2 h)
    · exact absurd hwin (by rw [show (param f 2).toNat = 0 from h]; decide)
    · exact absurd hwin' (not_le.2 h)
    · exact absurd hpre (not_le.2 h)
  exact responded_of_reply (exec_groupSet c s) hacc (groupSetRequest_ok hg hlegal hheld hrev)

/-- DISSOLVE_TIMER_EXPIRY is the expiry of the group's dissolve timer. -/
theorem exec_dissolveTimerExpiry (g : GroupNo) (s : State) : exec (.dissolveTimerExpiry g) s = s.run (Part.dissolveExpiry g) := rfl

/-- Settles O22: both events are the emptying of the group with its revision after it; the disband writes the settings first. -/
theorem disbandAndDissolveEmptyTheGroup : Obligations.DisbandAndDissolveEmptyTheGroup := by
  intro g s
  refine ⟨fun c f hacc hg hheld hrev => ?disband, fun htimer => ?dissolve⟩
  case disband =>
    exact ⟨_, removeAll_empties g _, responded_of_reply (exec_groupDisband c s) hacc (groupDisbandRequest_ok hg hheld hrev)⟩
  case dissolve =>
    refine ⟨_, removeAll_empties g s.part, ex (exec_dissolveTimerExpiry g s) ?_⟩
    unfold Part.dissolveExpiry
    rw [if_pos (Option.isSome_iff_ne_none.2 htimer), bumpRevision_revised]

end Sys2Proof.Machine
end

section
/-!
PROOFS. The radio ports (chapters 1 and 2): the orders to one port (R16 to R19, R88), the port requests PORT-SET (R21), PORT-CLEAR (R33),
PORT-GIVE and PORT-CLAIM (R22, R23), and the events of the radio side.
-/

namespace Sys2Proof.Machine

/-! Orders to one port. -/

/-- The record `x` that a change of record `r` gives, with what suppression does to it (R11). -/
def PortRec.settledFrom (r x : PortRec) : PortRec :=
  if x.Suppressed then x.quiet else if r.Suppressed then x.refiltered else x

theorem settle_settledFrom (r x : PortRec) : x.settle r.suppressed = r.settledFrom x := by
  unfold PortRec.settle PortRec.settledFrom
  simp only [suppressed_iff]
  rfl

/-- A change of state: the timers by the state entered, the guard where KEYED is left for a state other than SOURCE, and what
suppression does to the result (R11, R12, R24). -/
theorem goTo_settledFrom (st : PortState) (r : PortRec) :
    r.goTo st = r.settledFrom (if r.state = .keyed ∧ st ≠ .source ∧ st ≠ .keyed then (r.enter st).guarded else r.enter st) := by
  unfold PortRec.goTo PortRec.change
  rw [settle_settledFrom]
  simp only [startGuard_guarded]

theorem enter_idle (r : PortRec) :
    r.enter .idle = { r with state := .idle, transmitTimer := none, carrierTimer := none, cooldownTimer := none } := rfl

theorem enter_keyed (r : PortRec) :
    r.enter .keyed =
      { r with state := .keyed, transmitTimer := limitFrames r.settings.transmitLimit, carrierTimer := none,
               cooldownTimer := none } := by
  unfold PortRec.enter
  rw [limitTimer_eq]
  rfl

theorem enter_source (r : PortRec) :
    r.enter .source =
      { r with state := .source, transmitTimer := none, carrierTimer := limitFrames r.settings.carrierLimit,
               cooldownTimer := none } := by
  unfold PortRec.enter
  rw [limitTimer_eq (r.settings.carrierLimit)]
  rfl

/-- A port that leaves a state other than KEYED, or goes to KEYED or SOURCE, starts no guard (R12). -/
theorem goTo_of_no_guard {st : PortState} {r : PortRec} (h : r.state ≠ .keyed ∨ st = .source ∨ st = .keyed) :
    r.goTo st = r.settledFrom (r.enter st) := by
  rw [goTo_settledFrom, if_neg]
  rintro ⟨hk, hs, hst⟩
  obtain h | h | h := h
  · exact h hk
  · exact hs h
  · exact hst h

theorem goTo_idle_of_keyed {r : PortRec} (h : r.state = .keyed) : r.goTo .idle = r.settledFrom (r.enter .idle).guarded := by
  rw [goTo_settledFrom, if_pos ⟨h, nofun, nofun⟩]

/-- The filter restart of a preempt order leaves the same, whatever suppression did to the record before it. -/
theorem settledFrom_refiltered (r x : PortRec) : (r.settledFrom x).refiltered = x.refiltered := by
  unfold PortRec.settledFrom
  split
  · rfl
  · split <;> rfl

/-- Settles O39: every order is a change of state where it applies, and leaves the record as it is elsewhere. -/
theorem ordersOnOnePort : Obligations.OrdersOnOnePort := by
  intro r off under
  have hkeep (q : Prop) [Decidable q] (x y : PortRec) (h : q → x = y) : (if q then x else r) = if q then y else r := by
    split
    · next hq => exact h hq
    · rfl
  refine ⟨hkeep _ _ _ fun h => ?key, hkeep _ _ _ fun h => ?unkey, hkeep _ _ _ fun h => ?grant, hkeep _ _ _ fun h => ?preempt,
    hkeep _ _ _ fun h => ?strip, ?removed, hkeep _ _ _ fun h => ?endTalk⟩
  case key => rw [goTo_of_no_guard (.inr (.inr rfl)), enter_keyed]; rfl
  case unkey => rw [goTo_idle_of_keyed h]; rfl
  case grant => rw [goTo_of_no_guard (.inr (.inl rfl)), enter_source]; rfl
  case preempt =>
    rw [goTo_of_no_guard (.inr (.inr rfl)), enter_keyed]
    exact settledFrom_refiltered ..
  case strip =>
    unfold PortRec.change
    rw [settle_settledFrom]
    beta_reduce
    rw [startGuard_guarded]
    rfl
  case endTalk => rw [goTo_of_no_guard (.inl (by simp [h]))]; rfl
  case removed =>
    unfold PortRec.removed
    by_cases hk : r.state = .keyed
    · rw [if_pos (.inl hk), if_pos hk, goTo_idle_of_keyed hk]; rfl
    · by_cases hs : r.state = .source
      · rw [if_pos (.inr hs), if_neg hk, if_pos hs, goTo_of_no_guard (.inl hk)]; rfl
      · rw [if_neg (not_or.2 ⟨hk, hs⟩), if_neg hk, if_neg hs]

/-! PORT-SET. -/

theorem exec_portSet (c : CtlNo) (s : State) : exec (.portSet c) s = s.run (Part.serve .portSet portSetRequest c) := rfl
theorem exec_portClear (c : CtlNo) (s : State) : exec (.portClear c) s = s.run (Part.serve .portClear portClearRequest c) := rfl
theorem exec_portGive (c : CtlNo) (s : State) : exec (.portGive c) s = s.run (Part.serve .portGive portGiveRequest c) := rfl
theorem exec_portClaim (c : CtlNo) (s : State) : exec (.portClaim c) s = s.run (Part.serve .portClaim portClaimRequest c) := rfl

/-- An accepted PORT-SET carries the sixteen settings behind the port's number (R162). -/
theorem portSet_params_length {d : Part} {c : CtlNo} {f : List Byte} (hacc : d.accepts c .portSet f) :
    ((frameParams f).drop 1).length = 16 := by
  obtain ⟨-, -, -, hfits, -⟩ := hacc
  have hlen : f.length = 22 := by
    unfold ReqKind.lengthFits at hfits
    exact of_decide_eq_true (Bool.and_eq_true_iff.1 hfits).2
  simp [frameParams, hlen]

section portSet
variable {c : CtlNo} {tag : Byte} {ps : List Byte} {d : Part} {p : PortNo} {v : PortSettings}

/-- Bytes that are not those of legal settings are refused before the owner is looked at (R21, R161). -/
theorem portSetRequest_badValue (hlen : (ps.drop 1).length = 16)
    (h : 24 ≤ (arg ps 0).toNat ∨ ∀ v : PortSettings, v.legal = true → asBytes v.numbers ≠ ps.drop 1) :
    portSetRequest c tag ps d = reply .badValue d := by
  unfold portSetRequest
  obtain hp | hno := h
  · rw [numOf_none hp]
  · cases numOf 24 (arg ps 0) with
    | none => rfl
    | some p =>
      cases hv : PortSettings.ofBytes (d.port p).settings.owner (ps.drop 1) with
      | none => simp only [hv]
      | some v =>
        obtain ⟨hlegal, -, hbytes⟩ := (ofBytes_eq _ _ hlen v).1 hv
        exact absurd ((numbers_bytes v).symm.trans hbytes) (hno v hlegal)

theorem portSetRequest_named (hlen : (ps.drop 1).length = 16) (hp : (arg ps 0).toNat = p.val) (hlegal : v.legal = true)
    (hv : asBytes v.numbers = ps.drop 1) (howner : v.owner = (d.port p).settings.owner) :
    portSetRequest c tag ps d =
      if (d.port p).settings.owner ≠ c then reply .notOwner d else replyOk [] (d.portSet p v) := by
  unfold portSetRequest
  rw [numOf_some hp]
  simp only [(ofBytes_eq (d.port p).settings.owner _ hlen v).2 ⟨hlegal, howner, (numbers_bytes v).trans hv⟩]

end portSet

/-- The record that an accepted PORT-SET leaves of the port, before a carrier that it drops is reported (R8, R10, R21). -/
def PortRec.replaced (v : PortSettings) (r : PortRec) : PortRec :=
  let r1 := { r with settings := v }.refiltered
  if v.restartTimeout = 0 ∧ r.restartPhase = .waiting then { r1 with restartPhase := .stopped, restartTimer := none }
  else if v.restartTimeout ≠ 0 ∧ r.settings.restartTimeout = 0 ∧ r.linkUp = false ∧ r.restartPhase = .stopped then r1.restarted
  else r1

/-- PORT-SET carried out: the record, and where it took the carrier from yes to no the notice and the drop. -/
theorem portSet_replaced (d : Part) (p : PortNo) (v : PortSettings) :
    d.portSet p v =
      if (d.port p).carrier = true then
        ((d.modPort p (PortRec.replaced v)).told ((d.modPort p (PortRec.replaced v)).carrierNews p false)).carrierDrop p
      else d.modPort p (PortRec.replaced v) := by
  have hset : PortRec.applySettings v = PortRec.replaced v := funext fun r => applySettings_eq v r
  unfold Part.portSet
  dsimp only
  rw [hset, carrierNotice_told]

/-- Settles O28: the replies of the owner block; the record is written as R21 has it, and the drop of a carrier is the arbiter's. -/
theorem portSetReplacesTheSettings : Obligations.PortSetReplacesTheSettings := by
  intro c s f hacc
  have hlen := portSet_params_length hacc
  refine ⟨fun hbad => answered_of_reply (exec_portSet c s) hacc (portSetRequest_badValue hlen hbad),
    fun p v hp hlegal hv howner => ⟨fun hother => ?notOwner, fun hmine => ?set⟩⟩
  case notOwner =>
    exact answered_of_reply (exec_portSet c s) hacc
      ((portSetRequest_named (d := s.part.takeFrame c) hlen hp hlegal hv howner).trans (if_pos hother))
  case set =>
    have hreply := (portSetRequest_named (c := c) (tag := frameTag f) (d := s.part.deferredAt c) hlen hp hlegal hv howner).trans
      (if_neg (not_not_intro hmine))
    refine ⟨(s.part.deferredAt c).portSet p v, ?_, responded_of_reply (exec_portSet c s) hacc hreply⟩
    rw [portSet_replaced]
    by_cases hcar : (s.part.port p).carrier = true
    · rw [if_pos hcar, if_pos (show ((s.part.deferredAt c).port p).carrier = true from hcar)]
      exact drops_spec p _
    · rw [if_neg hcar, if_neg (show ¬ ((s.part.deferredAt c).port p).carrier = true from hcar)]
      rfl

/-! PORT-CLEAR. -/

/-- The state that PORT-CLEAR takes a port to (R33). -/
theorem clearState_eq (d : Part) (p : PortNo) :
    d.clearState p = if (d.port p).linkUp = true then d.stateOnReturn p else .offline := by
  unfold Part.clearState
  rw [stateOnReturn_eq]

theorem clearState_cases (d : Part) (p : PortNo) :
    d.clearState p = .idle ∨ d.clearState p = .keyed ∨ d.clearState p = .offline := by
  rw [clearState_eq]
  split
  · exact sor d p
  · exact .inr (.inr rfl)

/-- PORT-CLEAR carried out: the port back from its state of suppression, and the PORT notice with the state after it. -/
theorem portClear_told {d : Part} {p : PortNo} (h : (d.port p).state = .cooldown ∨ (d.port p).state = .latched) :
    d.portClear p = (d.modPort p (PortRec.backTo (d.clearState p))).told (d.portNews p (d.clearState p) .cleared) := by
  have hback : (d.port p).goTo (d.clearState p) = (d.port p).backTo (d.clearState p) :=
    goTo_backTo _ _ (h.elim .inl fun h => .inr (.inl h)) (clearState_cases d p)
  unfold Part.portClear
  rw [portNotice_mod _ _ _ _ (goTo_settings ..), goTo_state, modPort_const, hback, ← modPort_const]

section portClear
variable {c : CtlNo} {tag : Byte} {ps : List Byte} {d : Part} {p : PortNo}

theorem portClearRequest_badValue (h : 24 ≤ (arg ps 0).toNat) : portClearRequest c tag ps d = reply .badValue d := by
  unfold portClearRequest
  rw [numOf_none h]

theorem portClearRequest_named (hp : (arg ps 0).toNat = p.val) :
    portClearRequest c tag ps d =
      if (d.port p).settings.owner ≠ c then reply .notOwner d
      else if (d.port p).state = .cooldown ∨ (d.port p).state = .latched then
        replyOk [((d.portClear p).port p).state.code] (d.portClear p)
      else reply .state d := by
  unfold portClearRequest
  rw [numOf_some hp]

theorem portClearRequest_ok (hp : (arg ps 0).toNat = p.val) (howner : (d.port p).settings.owner = c)
    (hstate : (d.port p).state = .cooldown ∨ (d.port p).state = .latched) :
    portClearRequest c tag ps d =
      replyOk (asBytes [(d.clearState p).number])
        ((d.modPort p (PortRec.backTo (d.clearState p))).told (d.portNews p (d.clearState p) .cleared)) := by
  rw [portClearRequest_named hp, if_neg (not_not_intro howner), if_pos hstate, portClear_told hstate, told_port,
    modPort_port_self, portState_code_eq]
  rfl

end portClear

/-- Settles O29: the replies of the owner block, of which the last is the way back into service. -/
theorem portClearEndsTheLimit : Obligations.PortClearEndsTheLimit := by
  intro c s f hacc
  refine ⟨fun hbad => answered_of_reply (exec_portClear c s) hacc (portClearRequest_badValue hbad), fun p hp =>
    ⟨fun hother => ?notOwner, fun hmine hcool hlatch => ?state, fun hmine hstate => ?cleared⟩⟩
  case notOwner => exact answered_of_reply (exec_portClear c s) hacc ((portClearRequest_named hp).trans (if_pos hother))
  case state =>
    exact answered_of_reply (exec_portClear c s) hacc
      ((portClearRequest_named hp).trans ((if_neg (not_not_intro hmine)).trans (if_neg (not_or.2 ⟨hcool, hlatch⟩))))
  case cleared =>
    intro st cleared
    have hst : (s.part.deferredAt c).clearState p = st := clearState_eq ..
    have hreply := portClearRequest_ok (c := c) (tag := frameTag f) (d := s.part.deferredAt c) hp hmine hstate
    rw [hst] at hreply
    exact responded_of_reply (exec_portClear c s) hacc hreply

/-! PORT-GIVE and PORT-CLAIM. -/

section owner
variable {c : CtlNo} {tag : Byte} {ps : List Byte} {d : Part} {p : PortNo} {k : CtlNo}

theorem portGiveRequest_badValue (h : 24 ≤ (arg ps 0).toNat ∨ 6 ≤ (arg ps 1).toNat) :
    portGiveRequest c tag ps d = reply .badValue d := by
  unfold portGiveRequest
  obtain hp | hk := h
  · rw [numOf_none hp]
  · rw [numOf_none hk]
    cases numOf 24 (arg ps 0) <;> rfl

theorem portGiveRequest_named (hp : (arg ps 0).toNat = p.val) (hk : (arg ps 1).toNat = k.val) :
    portGiveRequest c tag ps d = if (d.port p).settings.owner ≠ c then reply .notOwner d else replyOk [] (d.setOwner p k) := by
  unfold portGiveRequest
  rw [numOf_some hp, numOf_some hk]

theorem portClaimRequest_badValue (h : 24 ≤ (arg ps 0).toNat) : portClaimRequest c tag ps d = reply .badValue d := by
  unfold portClaimRequest
  rw [numOf_none h]

theorem portClaimRequest_named (hp : (arg ps 0).toNat = p.val) :
    portClaimRequest c tag ps d =
      if (d.ctl (d.port p).settings.owner).attached then reply .state d else replyOk [] (d.setOwner p c) := by
  unfold portClaimRequest
  rw [numOf_some hp]

end owner

/-- Settles O30: each reply of the two owner blocks, and a change of one port commutes with the take. -/
theorem portGiveAndClaimMoveTheOwner : Obligations.PortGiveAndClaimMoveTheOwner := by
  intro c s f
  refine ⟨fun hacc => ⟨fun hbad => ?giveBad, fun p k hp hk => ⟨fun hother => ?giveOther, fun hmine => ?give⟩⟩,
    fun hacc => ⟨fun hbad => ?claimBad, fun p hp => ⟨fun hatt => ?claimState, fun hdet => ?claim⟩⟩⟩
  case giveBad => exact answered_of_reply (exec_portGive c s) hacc (portGiveRequest_badValue hbad)
  case giveOther => exact answered_of_reply (exec_portGive c s) hacc ((portGiveRequest_named hp hk).trans (if_pos hother))
  case give =>
    refine answered_of_reply (exec_portGive c s) hacc ((portGiveRequest_named hp hk).trans ((if_neg (not_not_intro hmine)).trans ?_))
    unfold Part.setOwner
    rw [modPort_takeFrame]
    rfl
  case claimBad => exact answered_of_reply (exec_portClaim c s) hacc (portClaimRequest_badValue hbad)
  case claimState =>
    refine answered_of_reply (exec_portClaim c s) hacc ((portClaimRequest_named hp).trans (if_pos ?_))
    rwa [takeFrame_attached]
  case claim =>
    refine answered_of_reply (exec_portClaim c s) hacc ((portClaimRequest_named hp).trans ((if_neg ?_).trans ?_))
    · rw [takeFrame_attached, takeFrame_port, hdet]
      exact Bool.false_ne_true
    · unfold Part.setOwner
      rw [modPort_takeFrame]
      rfl

end Sys2Proof.Machine
end

section
/-!
PROOFS. The events of the radio ports (chapters 1 and 2): emergency status, link, restart, guard, carrier, keying limits, cooldown. Each
event is said once where it occurs and once where it does not; what it reports to the arbiter is the arbiter's law.
-/

namespace Sys2Proof.Machine

/-- A change of a port reads nothing but the record it changes. -/
theorem modPort_congr {d : Part} {p : PortNo} {f f' : PortRec → PortRec} (h : f (d.port p) = f' (d.port p)) :
    d.modPort p f = d.modPort p f' := by
  rw [modPort_const, h, ← modPort_const]

section events
variable {d : Part} {p : PortNo}

/-! Emergency status (R2). -/

theorem emergencyDue_iff (r : PortRec) : r.emergencyDue = true ↔ 160 ≤ r.emergencyCount := decide_eq_true_iff

theorem emergencyAsserted_of_due (he : (d.port p).emergency = false) (hdue : 160 ≤ (d.port p).emergencyCount) :
    d.emergencyAsserted p = (d.modPort p fun r => { r with emergency := true, emergencyCount := 0 }).emergencyRaised p :=
  if_pos (by rw [he, (emergencyDue_iff _).2 hdue]; rfl)

theorem emergencyAsserted_of_not_due (h : (d.port p).emergency = true ∨ (d.port p).emergencyCount < 160) :
    d.emergencyAsserted p = d := by
  refine if_neg fun hc => ?_
  obtain ⟨he, hdue⟩ := Bool.and_eq_true_iff.1 hc
  obtain h | h := h
  · simp [h] at he
  · exact absurd ((emergencyDue_iff _).1 hdue) (not_le.2 h)

theorem emergencyReleased_of_due (he : (d.port p).emergency = true) (hdue : 160 ≤ (d.port p).emergencyCount) :
    d.emergencyReleased p = d.modPort p fun r => { r with emergency := false, emergencyCount := 0 } :=
  if_pos (by rw [he, (emergencyDue_iff _).2 hdue]; rfl)

theorem emergencyReleased_of_not_due (h : (d.port p).emergency = false ∨ (d.port p).emergencyCount < 160) :
    d.emergencyReleased p = d := by
  refine if_neg fun hc => ?_
  obtain ⟨he, hdue⟩ := Bool.and_eq_true_iff.1 hc
  obtain h | h := h
  · simp [h] at he
  · exact absurd ((emergencyDue_iff _).1 hdue) (not_le.2 h)

/-! Link (R6, R7). -/

theorem linkDue_up_iff {r : PortRec} (h : r.linkUp = true) : r.linkDue = true ↔ 160 ≤ r.linkCount := by
  unfold PortRec.linkDue
  rw [if_pos h]
  exact decide_eq_true_iff

theorem linkDue_down_iff {r : PortRec} (h : r.linkUp = false) : r.linkDue = true ↔ 100 ≤ r.linkCount := by
  unfold PortRec.linkDue
  rw [h]
  exact decide_eq_true_iff

theorem linkLoss_of_not_due (h : (d.port p).linkUp = false ∨ (d.port p).linkCount < 160 ∨ d.loading = true) :
    d.linkLoss p = d := by
  refine if_neg fun hc => ?_
  obtain ⟨hlink, hload⟩ := Bool.and_eq_true_iff.1 hc
  obtain ⟨hup, hdue⟩ := Bool.and_eq_true_iff.1 hlink
  obtain h | h | h := h
  · exact Bool.false_ne_true (h.symm.trans hup)
  · exact absurd ((linkDue_up_iff hup).1 hdue) (not_le.2 h)
  · simp [h] at hload

/-- A port that loses its link: DOWN, OFFLINE unless it is LATCHED, its guard started from KEYED, its restart timer as the timeout
has it (R6, R8, R12). -/
def PortRec.lost (r : PortRec) : PortRec :=
  let down := { r with linkUp := false, linkCount := 0 }
  if r.state = .latched then down
  else if r.state = .keyed then down.guarded.outOfService .offline else down.outOfService .offline

theorem loseLink_lost {r : PortRec} (h : r.state ≠ .offline) : r.loseLink = r.lost.restarted := by
  unfold PortRec.loseLink PortRec.lost
  dsimp only
  rw [restarted_eq]
  by_cases hl : r.state = .latched
  · rw [if_pos (.inl hl), if_pos hl]
  · rw [if_neg (not_or.2 ⟨hl, h⟩), if_neg hl, goTo_outOf _ _ (.inl rfl)]

@[simp] theorem restarted_settings (r : PortRec) : r.restarted.settings = r.settings := by
  unfold PortRec.restarted
  split <;> rfl

@[simp] theorem restarted_state (r : PortRec) : r.restarted.state = r.state := by
  unfold PortRec.restarted
  split <;> rfl

theorem lost_settings (r : PortRec) : r.lost.settings = r.settings := by
  unfold PortRec.lost
  dsimp only
  split
  · rfl
  · split <;> rfl

/-- The part after the loss of a link, before the arbiter has it reported. -/
def Part.linkLost (d : Part) (p : PortNo) : Part :=
  (d.modPort p fun _ => (d.port p).lost.restarted).told (d.portNews p (d.port p).lost.state .linkDown)

theorem linkLoss_of_due (hup : (d.port p).linkUp = true) (hdue : 160 ≤ (d.port p).linkCount) (hload : d.loading = false)
    (hstate : (d.port p).state ≠ .offline) : d.linkLoss p = (d.linkLost p).reportLoss (d.port p).state p := by
  have hoccurs : ((d.port p).linkUp && (d.port p).linkDue && !d.loading) = true := by
    rw [hup, (linkDue_up_iff hup).2 hdue, hload]; rfl
  have hrec := loseLink_lost hstate
  have hsettings : (d.port p).loseLink.settings = (d.port p).settings := by rw [hrec, restarted_settings, lost_settings]
  refine (if_pos hoccurs).trans ?_
  dsimp only
  rw [portNotice_mod _ _ _ _ hsettings, modPort_const, hrec, restarted_state]
  rfl

theorem linkReturn_of_not_due (h : (d.port p).linkUp = true ∨ (d.port p).linkCount < 100 ∨ d.loading = true) :
    d.linkReturn p = d := by
  refine if_neg fun hc => ?_
  obtain ⟨hlink, hload⟩ := Bool.and_eq_true_iff.1 hc
  obtain ⟨hdown, hdue⟩ := Bool.and_eq_true_iff.1 hlink
  have hdown' : (d.port p).linkUp = false := by simpa using hdown
  obtain h | h | h := h
  · exact Bool.false_ne_true (hdown'.symm.trans h)
  · exact absurd ((linkDue_down_iff hdown').1 hdue) (not_le.2 h)
  · simp [h] at hload

/-- A port whose link returns: UP, the restart stopped, and from OFFLINE back to the state of the floor test (R7, R8). -/
def PortRec.returned (st : PortState) (r : PortRec) : PortRec :=
  let up := { r with linkUp := true, linkCount := 0, restartPhase := .stopped, restartTimer := none }
  if r.state = .offline then up.backTo st else up

theorem returnLink_returned (r : PortRec) : r.returnLink (d.floorTest p) = r.returned (d.stateOnReturn p) := by
  have hst : (if d.floorTest p then PortState.keyed else .idle) = d.stateOnReturn p := stateOnReturn_eq d p
  unfold PortRec.returnLink PortRec.returned
  dsimp only
  rw [hst]
  by_cases h : r.state = .offline
  · rw [if_pos h, if_pos h]
    exact goTo_backTo _ _ (.inr (.inr h)) (sor d p)
  · rw [if_neg h, if_neg h]

theorem returned_settings (st : PortState) (r : PortRec) : (r.returned st).settings = r.settings := by
  unfold PortRec.returned
  dsimp only
  split <;> rfl

theorem linkReturn_of_due (hdown : (d.port p).linkUp = false) (hdue : 100 ≤ (d.port p).linkCount) (hload : d.loading = false) :
    d.linkReturn p =
      (d.modPort p fun _ => (d.port p).returned (d.stateOnReturn p)).told
        (d.portNews p ((d.port p).returned (d.stateOnReturn p)).state .linkUp) := by
  have hoccurs : (!(d.port p).linkUp && (d.port p).linkDue && !d.loading) = true := by
    rw [hdown, (linkDue_down_iff hdown).2 hdue, hload]; rfl
  have hrec := returnLink_returned (d := d) (p := p) (d.port p)
  have hsettings : ((d.port p).returnLink (d.floorTest p)).settings = (d.port p).settings := by rw [hrec, returned_settings]
  refine (if_pos hoccurs).trans ?_
  rw [portNotice_mod _ _ _ _ hsettings, modPort_const, hrec]

/-! Restart and guard (R8, R12). -/

theorem pulseFrames_eq (n : Nat) : pulseFrames n = 2000 + 400 * n := by
  unfold pulseFrames Config.ms
  omega

theorem restartTimerExpiry_of_waiting (h : (d.port p).restartPhase = .waiting) :
    d.restartTimerExpiry p =
      (d.modPort p fun r =>
        { r with restartPhase := .pulsing, restartTimer := some (2000 + 400 * r.settings.restartPulse) }).told
        (d.portNews p (d.port p).state .restart) := by
  refine (if_pos h).trans ?_
  rw [portNotice_mod]
  · simp only [pulseFrames_eq]; rfl
  · rfl

theorem restartPulseEnd_of_pulsing (h : (d.port p).restartPhase = .pulsing) :
    d.restartPulseEnd p = d.modPort p PortRec.restarted := by
  refine (if_pos h).trans ?_
  rw [modPort_const, restarted_eq, ← modPort_const]

theorem guardEnd_of_active (h : (d.port p).guard ≠ none) :
    d.guardEnd p = d.modPort p fun r =>
      if { r with guard := none }.Suppressed then { r with guard := none }.quiet else { r with guard := none }.refiltered := by
  have hactive : (d.port p).guardActive = true := Option.isSome_iff_ne_none.2 h
  have hsup : (d.port p).suppressed = true := (suppressed_iff _).2 (.inr (.inr (.inr (.inr h))))
  exact (if_pos hactive).trans (modPort_congr (settle_off _ _ hsup))

/-! Carrier (R13, R14). -/

theorem runDue_iff (r : PortRec) : r.runDue = true ↔ r.RunEnds := by
  unfold PortRec.runDue
  rw [Bool.and_eq_true_iff, decide_eq_true_iff, decide_eq_true_iff]

theorem carrierYes_of_not_due (h : (d.port p).Suppressed ∨ (d.port p).carrier = true ∨ ¬ (d.port p).RunEnds) :
    d.carrierYes p = d := by
  refine if_neg fun hc => ?_
  obtain ⟨hfree, hrun⟩ := Bool.and_eq_true_iff.1 hc
  obtain ⟨hsup, hcar⟩ := Bool.and_eq_true_iff.1 hfree
  obtain h | h | h := h
  · simp [(suppressed_iff _).2 h] at hsup
  · simp [h] at hcar
  · exact h ((runDue_iff _).1 hrun)

/-- The part with the carrier of port `p` qualified, and its notice by the trigger (R10, R15). -/
def Part.carrierOn (d : Part) (p : PortNo) : Part :=
  (d.modPort p fun r => { r with carrier := true, runCount := 0 }).told (d.carrierNews p true)

theorem carrierNotice_modPort {f : PortRec → PortRec} (on : Bool) (hs : (f (d.port p)).settings = (d.port p).settings)
    (hl : (f (d.port p)).rawLevel = (d.port p).rawLevel) :
    (d.modPort p f).carrierNotice p on = (d.modPort p f).told (d.carrierNews p on) := by
  rw [carrierNotice_told]
  unfold Part.carrierNews
  simp only [modPort_port_self, hs, hl]

theorem carrierYes_of_due (hsup : ¬ (d.port p).Suppressed) (hcar : (d.port p).carrier = false) (hrun : (d.port p).RunEnds) :
    d.carrierYes p = (d.carrierOn p).claimIfMember p := by
  have hfree : (d.port p).suppressed = false := Bool.eq_false_iff.2 (mt (suppressed_iff _).1 hsup)
  have hoccurs : (!(d.port p).suppressed && !(d.port p).carrier && (d.port p).runDue) = true := by
    rw [hfree, hcar, (runDue_iff _).2 hrun]; rfl
  refine (if_pos hoccurs).trans ?_
  rw [carrierNotice_modPort]
  · rfl
  · rfl
  · rfl

theorem claimIfMember_of_member {g : GroupNo} (hg : d.groupOf p = some g)
    (hstate : (d.port p).state = .idle ∨ (d.port p).state = .keyed) : d.claimIfMember p = d.floorRequest g p := by
  unfold Part.claimIfMember
  rw [if_pos hstate, hg]

theorem claimIfMember_of_none (h : d.groupOf p = none ∨ (d.port p).state = .source) : d.claimIfMember p = d := by
  unfold Part.claimIfMember
  obtain h | h := h
  · rw [h]; split <;> rfl
  · exact if_neg (by simp [h])

theorem carrierNo_of_not_due (h : (d.port p).carrier = false ∨ ¬ (d.port p).RunEnds) : d.carrierNo p = d := by
  refine if_neg fun hc => ?_
  obtain ⟨hcar, hrun⟩ := Bool.and_eq_true_iff.1 hc
  obtain h | h := h
  · exact Bool.false_ne_true (h.symm.trans hcar)
  · exact h ((runDue_iff _).1 hrun)

theorem carrierNo_of_due (hcar : (d.port p).carrier = true) (hrun : (d.port p).RunEnds) :
    d.carrierNo p =
      ((d.modPort p fun r => { r with carrier := false, runCount := 0 }).told (d.carrierNews p false)).carrierDrop p := by
  refine (if_pos (by rw [hcar, (runDue_iff _).2 hrun]; rfl)).trans ?_
  rw [carrierNotice_modPort]
  · rfl
  · rfl

/-! Limits and cooldown (R27, R28, R30). -/

/-- The expiry of a limit: the record that the limit action leaves, and the PORT notice with its state. -/
theorem limitOut_told {out : PortRec} (cause : PortCause) (h : (d.port p).limitOut = out) :
    (d.modPort p PortRec.limitOut).portNotice p cause = (d.modPort p fun _ => out).told (d.portNews p out.state cause) := by
  rw [portNotice_mod _ _ _ _ (limitOut_settings _), modPort_const, h]

theorem transmitLimitExpiry_of_keyed (ht : (d.port p).transmitTimer ≠ none) (hs : (d.port p).state = .keyed) :
    d.transmitLimitExpiry p =
      ((d.modPort p fun _ => (d.port p).guarded.limited).told
        (d.portNews p (d.port p).guarded.limited.state .txLimit)).memberUnavailable p := by
  refine (if_pos (by rw [Option.isSome_iff_ne_none.2 ht, decide_eq_true hs]; rfl)).trans ?_
  rw [limitOut_told _ ((limitOut_eq _).trans (if_pos hs))]

theorem carrierLimitExpiry_of_source (ht : (d.port p).carrierTimer ≠ none) (hs : (d.port p).state = .source) :
    d.carrierLimitExpiry p =
      ((d.modPort p fun _ => (d.port p).limited).told (d.portNews p (d.port p).limited.state .carrierLimit)).sourceLost p := by
  refine (if_pos (by rw [Option.isSome_iff_ne_none.2 ht, decide_eq_true hs]; rfl)).trans ?_
  rw [limitOut_told _ ((limitOut_eq _).trans (if_neg (by simp [hs])))]

theorem cooldownExpiry_of_cooldown (ht : (d.port p).cooldownTimer ≠ none) (hs : (d.port p).state = .cooldown) :
    d.cooldownExpiry p =
      (d.modPort p (PortRec.backTo (d.stateOnReturn p))).told (d.portNews p (d.stateOnReturn p) .cooldownEnd) := by
  refine (if_pos (by rw [Option.isSome_iff_ne_none.2 ht, decide_eq_true hs]; rfl)).trans ?_
  rw [stateOnReturn_eq, portNotice_mod _ _ _ _ (goTo_settings ..), goTo_state, modPort_const,
    goTo_backTo _ _ (.inl hs) (sor d p), ← modPort_const]

end events

/-- Settles O31: the events by whether their count is due; the report of the rise is the arbiter's law. -/
theorem emergencyStatusChanges : Obligations.EmergencyStatusChanges := by
  intro p s
  refine ⟨fun he hdue => ⟨_, raises_spec p _, ex rfl (emergencyAsserted_of_due he hdue)⟩,
    fun he hdue => ex (f := Part.emergencyReleased p) rfl (emergencyReleased_of_due he hdue),
    fun h => ex (f := Part.emergencyAsserted p) rfl (emergencyAsserted_of_not_due h),
    fun h => ex (f := Part.emergencyReleased p) rfl (emergencyReleased_of_not_due h)⟩

/-- Settles O32: where the loss is due, the record, the notice, and by the state before it the report to the arbiter. -/
theorem linkLossTakesThePortOffline : Obligations.LinkLossTakesThePortOffline := by
  intro p s
  refine ⟨fun h => ex (f := Part.linkLoss p) rfl (linkLoss_of_not_due h), fun hup hdue hload hstate => ?_⟩
  intro r down out lost
  have hlost : s.part.linkLost p = lost := rfl
  refine ⟨_, ex (f := Part.linkLoss p) rfl (linkLoss_of_due hup hdue hload hstate), fun hs => ?source, fun hs => ?member,
    fun hs => ?service⟩
  case source => rw [show (s.part.port p).state = .source from hs, hlost]; exact sourceLost_spec p lost
  case member =>
    obtain hs | hs := hs
    · rw [show (s.part.port p).state = .keyed from hs, hlost]; exact memberUnavailable_spec p lost
    · rw [show (s.part.port p).state = .idle from hs, hlost]; exact memberUnavailable_spec p lost
  case service =>
    obtain hs | hs := hs
    · rw [show (s.part.port p).state = .cooldown from hs, hlost]; rfl
    · rw [show (s.part.port p).state = .latched from hs, hlost]; rfl

/-- Settles O33: the event by whether it is due. -/
theorem linkReturnBringsThePortBack : Obligations.LinkReturnBringsThePortBack := by
  intro p s
  exact ⟨fun h => ex (f := Part.linkReturn p) rfl (linkReturn_of_not_due h),
    fun hdown hdue hload => ex (f := Part.linkReturn p) rfl (linkReturn_of_due hdown hdue hload)⟩

/-- Settles O34: one equation for each of the three events. -/
theorem restartAndGuardEnd : Obligations.RestartAndGuardEnd := by
  intro p s
  exact ⟨fun h => ex (f := Part.restartTimerExpiry p) rfl (restartTimerExpiry_of_waiting h),
    fun h => ex (f := Part.restartPulseEnd p) rfl (restartPulseEnd_of_pulsing h),
    fun h => ex (f := Part.guardEnd p) rfl (guardEnd_of_active h)⟩

/-- Settles O35: where the carrier qualifies, the record with its notice; the floor request by the port's group and state. -/
theorem carrierYesClaimsTheFloor : Obligations.CarrierYesClaimsTheFloor := by
  intro p s
  refine ⟨fun h => ex (f := Part.carrierYes p) rfl (carrierYes_of_not_due h), fun hsup hcar hrun => ?_⟩
  intro on
  have hon : s.part.carrierOn p = on := rfl
  have hstate : ((s.part.carrierOn p).port p).state = (s.part.port p).state := by
    unfold Part.carrierOn
    rw [told_port, modPort_port_self]
  refine ⟨_, ex (f := Part.carrierYes p) rfl (carrierYes_of_due hsup hcar hrun), fun g hg hs => ?request, fun h => ?none⟩
  case request =>
    rw [claimIfMember_of_member (d := s.part.carrierOn p) (g := g) hg (by rw [hstate]; exact hs), hon]
    exact floorRequest_requests g p on
  case none => exact claimIfMember_of_none (h.imp id fun hs => hstate.trans hs)

/-- Settles O36: where the carrier drops, the record with its notice; the drop is the arbiter's law. -/
theorem carrierNoEndsTheTalk : Obligations.CarrierNoEndsTheTalk := by
  intro p s
  exact ⟨fun h => ex (f := Part.carrierNo p) rfl (carrierNo_of_not_due h),
    fun hcar hrun => ⟨_, drops_spec p _, ex (f := Part.carrierNo p) rfl (carrierNo_of_due hcar hrun)⟩⟩

/-- Settles O37: each expiry is the record out of service with its notice, and then the report to the arbiter. -/
theorem limitExpiryTakesThePortOut : Obligations.LimitExpiryTakesThePortOut := by
  intro p s
  exact ⟨fun ht hs => ⟨_, memberUnavailable_spec p _, ex (f := Part.transmitLimitExpiry p) rfl (transmitLimitExpiry_of_keyed ht hs)⟩,
    fun ht hs => ⟨_, sourceLost_spec p _, ex (f := Part.carrierLimitExpiry p) rfl (carrierLimitExpiry_of_source ht hs)⟩⟩

/-- Settles O38: the end of a cooldown is the way back into service by the floor test. -/
theorem cooldownEndsInService : Obligations.CooldownEndsInService := by
  intro p s ht hs
  exact ex (f := Part.cooldownExpiry p) rfl (cooldownExpiry_of_cooldown ht hs)

end Sys2Proof.Machine
end

section
/-!
PROOFS. Consoles and the floor (chapters 5 to 7): CONSOLE-SET (R115), TALK-REQUEST (R81), FLOOR-CLEAR (R87) and the expiries of the
floor timers (R75, R82, R105).
-/

namespace Sys2Proof.Machine

/-! CONSOLE-SET. -/

theorem exec_consoleSet (c : CtlNo) (s : State) : exec (.consoleSet c) s = s.run (Part.serve .consoleSet consoleSetRequest c) := rfl
theorem exec_talkRequest (c : CtlNo) (s : State) :
    exec (.talkRequest c) s = s.run (Part.serve .talkRequest talkRequestRequest c) := rfl
theorem exec_floorClear (c : CtlNo) (s : State) : exec (.floorClear c) s = s.run (Part.serve .floorClear floorClearRequest c) := rfl

theorem mem_groupSetOf (gs : List GroupNo) (g : GroupNo) : g ∈ groupSetOf gs ↔ g ∈ gs := by
  simp [groupSetOf]

theorem groupSetOf_nodup (gs : List GroupNo) : (groupSetOf gs).Nodup := (List.nodup_finRange 12).filter _

/-- Bytes all below `n` are the bytes of a list of numbers, and name none twice where no byte stands twice. -/
theorem exists_numsOf {n : Nat} (hn : n ≤ 256) {bs : List Byte} (h : ∀ b ∈ bs, b.toNat < n) :
    ∃ is : List (Fin n), numsOf n bs = some is ∧ bs = is.map (fun i => BitVec.ofNat 8 i.val) ∧ (bs.Nodup ↔ is.Nodup) := by
  obtain ⟨is, his⟩ := (numsOf_some bs).2 h
  have hbytes := numsOf_map hn his
  exact ⟨is, his, hbytes, by rw [hbytes, nodup_map hn]⟩

/-- A byte that is out of range leaves the list with no reading. -/
theorem numsOf_eq_none {n : Nat} {bs : List Byte} (h : ∃ b ∈ bs, n ≤ b.toNat) : numsOf n bs = none := by
  cases his : numsOf n bs with
  | none => rfl
  | some is =>
    obtain ⟨b, hb, hle⟩ := h
    exact absurd ((numsOf_some bs).1 ⟨is, his⟩ b hb) (not_lt.2 hle)

section consoleSet
variable {c : CtlNo} {tag : Byte} {ps : List Byte} {d : Part}

theorem consoleSetRequest_badValue
    (h : 1 < (arg ps 0).toNat ∨ (∃ b ∈ ps.drop 2, 12 ≤ b.toNat) ∨ ¬ (ps.drop 2).Nodup) :
    consoleSetRequest c tag ps d = reply .badValue d := by
  unfold consoleSetRequest
  obtain hk | hrest := h
  · rw [(srcClass_byte _).1 hk]
  cases hgs : numsOf 12 (ps.drop 2) with
  | none => cases SrcClass.ofByte (arg ps 0) <;> rfl
  | some gs =>
    obtain hrange | htwice := hrest
    · exact nomatch (numsOf_eq_none hrange).symm.trans hgs
    · have hnot : ¬ distinct gs = true := fun hd =>
        htwice (by rw [numsOf_map (by decide) hgs, nodup_map (by decide)]; exact (distinct_iff gs).1 hd)
      cases SrcClass.ofByte (arg ps 0) with
      | none => rfl
      | some k => exact if_neg fun h => hnot h.1

theorem consoleSetRequest_ok {gs : List GroupNo} (hk : ¬ 1 < (arg ps 0).toNat) (hgs : numsOf 12 (ps.drop 2) = some gs)
    (hnodup : gs.Nodup) :
    consoleSetRequest c tag ps d =
      replyOk [] (d.modConsole c fun r =>
        { r with srcClass := if arg ps 0 = 0 then .high else .low, monitor := groupSetOf gs }) := by
  have hfew : gs.length ≤ 12 := by simpa using hnodup.length_le_card
  unfold consoleSetRequest
  rw [(srcClass_byte _).2 hk, hgs]
  exact if_pos ⟨(distinct_iff gs).2 hnodup, hfew⟩

end consoleSet

/-- Settles O40: the two replies of the owner block, told apart by whether the bytes name a class and distinct groups. -/
theorem consoleSetWritesClassAndSet : Obligations.ConsoleSetWritesClassAndSet := by
  intro c s f hacc named bad
  refine ⟨fun hbad => answered_of_reply (exec_consoleSet c s) hacc (consoleSetRequest_badValue hbad), fun hgood => ?_⟩
  obtain ⟨hk, hrest⟩ := not_or.1 hgood
  obtain ⟨hrange, hnodup⟩ := not_or.1 hrest
  obtain ⟨gs, hgs, hbytes, hiff⟩ := exists_numsOf (n := 12) (bs := named) (by decide) fun b hb =>
    not_le.1 fun hle => hrange ⟨b, hb, hle⟩
  refine ⟨groupSetOf gs, fun g => ?mem, groupSetOf_nodup gs, answered_of_reply (exec_consoleSet c s) hacc ?reply⟩
  case mem => rw [mem_groupSetOf, hbytes, mono_mem]
  case reply =>
    refine (consoleSetRequest_ok hk hgs (hiff.1 (not_not.1 hnodup))).trans ?_
    rw [modConsole_takeFrame]
    rfl

/-! TALK-REQUEST refused. -/

section talkRequest
variable {c : CtlNo} {tag : Byte} {ps : List Byte} {d : Part} {g : GroupNo}

theorem talkRequestRequest_noGroup (h : 12 ≤ (arg ps 0).toNat) : talkRequestRequest c tag ps d = reply .badValue d := by
  unfold talkRequestRequest
  rw [numOf_none h, touchNamed_none h]

theorem talkRequestRequest_noFlag (hg : (arg ps 0).toNat = g.val) (h : 1 < (arg ps 1).toNat) :
    talkRequestRequest c tag ps d = reply .badValue (d.renewed c g) := by
  unfold talkRequestRequest
  rw [numOf_some hg, (bool_byte _).1 h, touchNamed_some hg]

/-- A request with legal parameters is refused by the first check that fails, and otherwise goes to the floor as it stands. -/
theorem talkRequestRequest_named (hg : (arg ps 0).toNat = g.val) (hem : (arg ps 1).toNat ≤ 1) :
    talkRequestRequest c tag ps d =
      ((d.renewed c g).talkCheck c g).elim ((d.renewed c g).talkRequest c g (decide ((arg ps 1).toNat = 1)))
        (fun st => reply st (d.renewed c g)) := by
  unfold talkRequestRequest
  rw [numOf_some hg, (bool_byte _).2 hem, touchNamed_some hg]
  show (match (d.renewed c g).talkCheck c g with
    | some st => reply st (d.renewed c g)
    | none => (d.renewed c g).talkRequest c g (decide ((arg ps 1).toNat = 1))) = _
  cases (d.renewed c g).talkCheck c g <;> rfl

theorem talkRequestRequest_refused {st : Status} (hg : (arg ps 0).toNat = g.val) (hem : (arg ps 1).toNat ≤ 1)
    (h : (d.renewed c g).talkCheck c g = some st) : talkRequestRequest c tag ps d = reply st (d.renewed c g) := by
  rw [talkRequestRequest_named hg hem, h]; rfl

theorem talkRequestRequest_passes (hg : (arg ps 0).toNat = g.val) (hem : (arg ps 1).toNat ≤ 1)
    (h : (d.renewed c g).talkCheck c g = none) :
    talkRequestRequest c tag ps d = (d.renewed c g).talkRequest c g (decide ((arg ps 1).toNat = 1)) := by
  rw [talkRequestRequest_named hg hem, h]; rfl

end talkRequest

section talkCheck
variable {c : CtlNo} {d : Part} {g : GroupNo}

theorem talkCheck_empty (h : (d.group g).members = []) : d.talkCheck c g = some .noSuch := by
  unfold Part.talkCheck
  rw [formed_false _ h]
  rfl

/-- In a FORMED group the console's involvement decides. -/
theorem talkCheck_formed (h : (d.group g).members ≠ []) :
    d.talkCheck c g =
      match (d.console c).involvement with
      | .none => none
      | .waiter h => if h = g then some .state else some .consoleBusy
      | .holder h =>
        if h ≠ g then some .consoleBusy
        else if (d.floor g).state = .pending ∨ (d.floor g).state = .talk then some .state else none := by
  unfold Part.talkCheck
  rw [formed_true _ h]
  rfl

theorem talkCheck_waiter (h : (d.group g).members ≠ []) (hinv : (d.console c).involvement = .waiter g) :
    d.talkCheck c g = some .state := by
  rw [talkCheck_formed h, hinv]
  exact if_pos rfl

theorem talkCheck_holder (h : (d.group g).members ≠ []) (hinv : (d.console c).involvement = .holder g)
    (hstate : (d.floor g).state = .pending ∨ (d.floor g).state = .talk) : d.talkCheck c g = some .state := by
  rw [talkCheck_formed h, hinv]
  exact (if_neg (not_not_intro rfl)).trans (if_pos hstate)

theorem talkCheck_elsewhere {x : GroupNo} (h : (d.group g).members ≠ []) (hx : x ≠ g)
    (hinv : (d.console c).involvement = .waiter x ∨ (d.console c).involvement = .holder x) :
    d.talkCheck c g = some .consoleBusy := by
  rw [talkCheck_formed h]
  obtain hinv | hinv := hinv
  · rw [hinv]; exact if_neg hx
  · rw [hinv]; exact if_pos hx

theorem talkCheck_passes (h : (d.group g).members ≠ [])
    (hinv : (d.console c).involvement = .none ∨
      ((d.console c).involvement = .holder g ∧ (d.floor g).state ≠ .pending ∧ (d.floor g).state ≠ .talk)) :
    d.talkCheck c g = none := by
  rw [talkCheck_formed h]
  obtain hinv | ⟨hinv, hp, ht⟩ := hinv
  · rw [hinv]
  · rw [hinv]
    exact (if_neg (not_not_intro rfl)).trans (if_neg (not_or.2 ⟨hp, ht⟩))

end talkCheck

/-- Settles O41: each refusal is that of the first check that fails. -/
theorem talkRequestRefusesInOrder : Obligations.TalkRequestRefusesInOrder := by
  intro c s f hacc
  refine ⟨fun h => answered_of_reply (exec_talkRequest c s) hacc (talkRequestRequest_noGroup h), fun g hg => ?_⟩
  intro refused
  have hcheck {st : Status} (hem : (param f 1).toNat ≤ 1)
      (h : ((s.part.takeFrame c).renewed c g).talkCheck c g = some st) : refused st :=
    refused_of_reply (exec_talkRequest c s) hacc (talkRequestRequest_refused hg hem h)
  have hform (h : (s.part.group g).members ≠ []) : (((s.part.takeFrame c).renewed c g).group g).members ≠ [] := by
    rwa [renewed_members]
  refine ⟨fun h => refused_of_reply (exec_talkRequest c s) hacc (talkRequestRequest_noFlag hg h),
    fun hem hempty => hcheck hem (talkCheck_empty (by rwa [renewed_members])),
    fun hem hne hinv => hcheck hem (talkCheck_waiter (hform hne) (by rwa [renewed_console])),
    fun hem hne hinv hst => hcheck hem (talkCheck_holder (hform hne) (by rwa [renewed_console]) (by rwa [renewed_floor])),
    fun hem hne ⟨x, hx, hinv⟩ => hcheck hem (talkCheck_elsewhere (hform hne) hx (by rwa [renewed_console]))⟩

/-! TALK-REQUEST granted, resumed or waiting. -/

section talkRequestCases
variable {c : CtlNo} {d : Part} {g : GroupNo} {em : Bool}

theorem talkRequest_of_free (h : (d.floor g).state = .free) :
    d.talkRequest c g em = replyOk [0] (d.grantFromFree g (.console c) em) := if_pos h

/-- The parked console takes the floor back (R81): one change of the floor and its notice. -/
theorem talkRequest_of_parked (h : (d.floor g).state = .hang) (hh : (d.floor g).holder = some (.console c)) :
    d.talkRequest c g em =
      let f := { d.floor g with state := .talk, hangTimer := none, mark := em }
      replyOk [2] ((d.modFloor g fun _ => f).told (d.floorNews g f .resumed)) := by
  have hnotice := resume_told g em d id (fun _ => rfl)
  refine (if_neg (by simp [h])).trans ((if_pos ⟨h, hh⟩).trans ?_)
  dsimp only [id] at hnotice ⊢
  rw [hnotice, floorNotice_told, modFloor_floor_self]
  rfl

/-- A claim on a busy floor is answered by whether the console holds the floor after it (R81). -/
theorem talkRequest_of_busy (h : (d.floor g).state ≠ .free)
    (hh : ¬ ((d.floor g).state = .hang ∧ (d.floor g).holder = some (.console c))) :
    d.talkRequest c g em =
      let t := d.busyClaim g { source := .console c, srcClass := (d.console c).srcClass, emergency := em } (some c)
      replyOk [if (t.floor g).holder = some (.console c) then 0 else 1] t := by
  refine (if_neg h).trans ((if_neg hh).trans ?_)
  unfold Part.talkClaim replyOutcome
  dsimp only
  split <;> rfl

end talkRequestCases

/-- Settles O42: the passed checks leave the floor as it stands to decide, and each of the three cases is the arbiter's law. -/
theorem talkRequestClaimsTheFloor : Obligations.TalkRequestClaimsTheFloor := by
  intro c s f g hacc hg hem hne hinv em fl
  have hcheck : (s.part.taking c g).talkCheck c g = none :=
    talkCheck_passes (by rwa [taking_members]) (by rwa [taking_console, taking_floor])
  have hreply := talkRequestRequest_passes (tag := frameTag f) (d := s.part.deferredAt c) hg hem hcheck
  have hfloor : (s.part.taking c g).floor g = fl := taking_floor ..
  refine ⟨fun hfree => ?free, fun hhang hh => ?parked, fun hbusy hnot => ?busy⟩
  case free =>
    intro fl'
    have hgoes := grantFromFree_goes g (.console c) em (s.part.taking c g)
    rw [hfloor, taking_settings] at hgoes
    dsimp only at hgoes
    rw [taking_floorNews] at hgoes
    exact ⟨_, hgoes, responded_of_reply (exec_talkRequest c s) hacc (hreply.trans (talkRequest_of_free (by rw [renewed_floor]; exact hfree)))⟩
  case parked =>
    intro fl' t
    have hparked := talkRequest_of_parked (d := s.part.taking c g) (g := g) (c := c) (em := em)
      (by rwa [taking_floor]) (by rwa [taking_floor])
    rw [hfloor] at hparked
    dsimp only at hparked
    rw [taking_floorNews] at hparked
    exact responded_of_reply (exec_talkRequest c s) hacc (hreply.trans hparked)
  case busy =>
    have hclaims := busyClaim_claims g { source := .console c, srcClass := (s.part.console c).srcClass, emergency := em } (some c)
      (s.part.taking c g)
    refine ⟨_, hclaims, ?_⟩
    intro outcome
    refine responded_of_reply (exec_talkRequest c s) hacc (hreply.trans ((talkRequest_of_busy ?_ ?_).trans ?_))
    · rw [renewed_floor]; exact hbusy
    · rw [renewed_floor]; exact hnot
    · rw [renewed_console]; rfl

/-! FLOOR-CLEAR. -/

section floorClear
variable {c : CtlNo} {tag : Byte} {ps : List Byte} {d : Part} {g : GroupNo}

theorem floorClearRequest_noGroup (h : 12 ≤ (arg ps 0).toNat) : floorClearRequest c tag ps d = reply .badValue d := by
  unfold floorClearRequest
  rw [numOf_none h, touchNamed_none h]

theorem floorClearRequest_named (hg : (arg ps 0).toNat = g.val) :
    floorClearRequest c tag ps d =
      let e := d.renewed c g
      if (e.group g).heldByOther c then reply .held e
      else if (e.floor g).state = .free then replyOk [] e
      else replyOk [] (e.clearFloor g .cleared .cleared) := by
  unfold floorClearRequest
  rw [numOf_some hg, touchNamed_some hg]

theorem floorClearRequest_held (hg : (arg ps 0).toNat = g.val) (h : d.heldAgainst g c) :
    floorClearRequest c tag ps d = reply .held (d.renewed c g) :=
  (floorClearRequest_named hg).trans (if_pos (heldByOther_renewed_iff.2 h))

theorem floorClearRequest_free (hg : (arg ps 0).toNat = g.val) (h : ¬ d.heldAgainst g c) (hfree : (d.floor g).state = .free) :
    floorClearRequest c tag ps d = replyOk [] (d.renewed c g) :=
  (floorClearRequest_named hg).trans ((if_neg (mt heldByOther_renewed_iff.1 h)).trans (if_pos (by rwa [renewed_floor])))

theorem floorClearRequest_busy (hg : (arg ps 0).toNat = g.val) (h : ¬ d.heldAgainst g c) (hbusy : (d.floor g).state ≠ .free) :
    floorClearRequest c tag ps d = replyOk [] ((d.renewed c g).clearFloor g .cleared .cleared) :=
  (floorClearRequest_named hg).trans ((if_neg (mt heldByOther_renewed_iff.1 h)).trans (if_neg (by rwa [renewed_floor])))

end floorClear

/-- Settles O44: the replies of the owner block; the clearing is the arbiter's law, read with the frame taken. -/
theorem floorClearEndsTheFloor : Obligations.FloorClearEndsTheFloor := by
  intro c s f hacc
  refine ⟨fun h => answered_of_reply (exec_floorClear c s) hacc (floorClearRequest_noGroup h), fun g hg =>
    ⟨fun h => refused_of_reply (exec_floorClear c s) hacc (floorClearRequest_held hg h),
     fun h hfree => refused_of_reply (exec_floorClear c s) hacc (floorClearRequest_free hg h hfree), fun h hbusy => ?_⟩⟩
  obtain ⟨hends, hports⟩ := clearFloor_ends g .cleared .cleared (s.part.taking c g)
  have hnews : (s.part.taking c g).endNews g .cleared .cleared = s.part.endNews g .cleared .cleared :=
    emptied_congr (fun _ => taking_floor ..) (taking_holder ..) (fun _ => by rw [taking_console]) _ _
  rw [hnews] at hends
  refine ⟨_, hends, fun p => ?_, responded_of_reply (exec_floorClear c s) hacc (floorClearRequest_busy hg h hbusy)⟩
  rw [hports, taking_members]
  rfl

/-! The floor timers. -/

/-- Settles O45: each expiry, where its timer runs in its state, is one end of a place, whose law says where the floor goes. -/
theorem floorTimersExpire : Obligations.FloorTimersExpire := by
  intro g s f
  have hruns {t : Timer} (h : t ≠ none) : t.isSome = true := Option.isSome_iff_ne_none.2 h
  refine ⟨fun ht hs => ⟨_, endNoHang_goes g .hangExpired s.part, ex (f := Part.hangExpiry g) rfl ?hang⟩,
    fun ht hs => ⟨_, lapseGrant_goes g .window s.part, ex (f := Part.windowExpiry g) rfl ?window⟩,
    fun ht hs hm => ⟨_, cut_cuts g none s.part, ex (f := Part.preemptExpiry g) rfl ?preempt⟩⟩
  case hang => exact if_pos (by rw [hruns ht, decide_eq_true hs]; rfl)
  case window => exact if_pos (by rw [hruns ht, decide_eq_true hs]; rfl)
  case preempt => exact if_pos (by rw [hruns ht, decide_eq_true hs, hm]; rfl)

end Sys2Proof.Machine
end

section
/-!
PROOFS. The audio switch (chapter 7): the end of a level block (R113), and a TDM frame with its samples (R108 to R112), counts and timers
(R2, R6, R7, R10).
-/

namespace Sys2Proof.Machine

/-! Level blocks. -/

theorem blockDue_iff (d : Part) : d.blockDue = true ↔ 80 ≤ d.blockFrames := decide_eq_true_iff

/-- The part after a level block that holds its 80 frames. -/
def Part.levelled (d : Part) : Part :=
  { d with
    ports := tmap (fun p r => r.setLevel (levelOf (tget d.peaks p))) d.ports
    peaks := Vector.replicate 24 0
    blockFrames := 0 }

theorem levelBlockEnd_of_due {d : Part} (h : 80 ≤ d.blockFrames) : d.levelBlockEnd = d.levelled := if_pos ((blockDue_iff d).2 h)

theorem levelBlockEnd_of_not_due {d : Part} (h : d.blockFrames < 80) : d.levelBlockEnd = d :=
  if_neg (mt (blockDue_iff d).1 (not_le.2 h))

theorem levelled_port (d : Part) (p : PortNo) : d.levelled.port p = (d.port p).setLevel (levelOf (tget d.peaks p)) := tget_tmap ..

/-- Settles O47: the block by whether it is full; each level is the level of its peak. -/
theorem levelBlockEndHandsTheLevels : Obligations.LevelBlockEndHandsTheLevels := by
  intro s
  refine ⟨fun h => ex (f := Part.levelBlockEnd) rfl (levelBlockEnd_of_not_due h), fun h =>
    ⟨_, ex (f := Part.levelBlockEnd) rfl (levelBlockEnd_of_due h), fun p => ⟨_, isLevel_levelOf _, ?_⟩, rfl⟩⟩
  exact levelled_port s.part p

/-! The samples of a frame. -/

/-- What a radio slot carries is decided by the port's group and state in either order (R111). -/
theorem radioOut_eq (d : Part) (p : PortNo) :
    d.radioOut p =
      match d.groupOf p with
      | none => 0
      | some g =>
        if (d.port p).state = .keyed then
          match d.routedSlot g with
          | none => 0
          | some n => d.takenAt n
        else 0 := by
  unfold Part.radioOut
  cases hg : d.groupOf p with
  | none => simp
  | some g =>
    by_cases hk : (d.port p).state = .keyed
    · simp only [hk, if_true, routed_eq]
      cases d.routedSlot g <;> rfl
    · simp only [hk, if_false]

theorem routedSlot_eq (d : Part) (g : GroupNo) : d.routedSlot g = (d.routedSource g).map Fin.val := by
  have hslot (src : Source) : src.slot.val = src.number := by cases src <;> rfl
  unfold Part.routedSlot Part.routedSource
  cases (d.floor g).state with
  | free => rfl
  | hang => rfl
  | pending => cases (d.floor g).holder <;> simp [hslot]
  | talk => cases (d.floor g).holder <;> simp [hslot]

/-- A group's contribution to a console mix, in the words of the statement (R112). -/
theorem mixTerm_eq (d : Part) (c : CtlNo) (g : GroupNo) :
    d.mixTerm c g =
      match d.routedSlot g with
      | none => 0
      | some n => if n = 24 + c.val then 0 else (d.takenAt n).toInt := by
  unfold Part.mixTerm
  rw [routedSlot_eq]
  cases d.routedSource g with
  | none => rfl
  | some i =>
    have hi : i = consoleSlot c ↔ i.val = 24 + c.val := Fin.ext_iff
    simp only [Option.map_some, taken_eq, hi]

theorem foldl_mix (f : GroupNo → Int) (gs : List GroupNo) (z : Int) :
    gs.foldl (fun acc g => acc + f g) z = z + (gs.map f).sum := by
  induction gs generalizing z with
  | nil => simp
  | cons g gs ih => rw [List.foldl_cons, ih, List.map_cons, List.sum_cons, add_assoc]

/-- The limited sum is the sum, cut at full scale (R112). -/
theorem limitSum_toInt (x : Int) : (limitSum x).toInt = if x > 32767 then 32767 else if x < -32768 then -32768 else x := by
  unfold limitSum
  refine BitVec.toInt_ofInt_eq_self (by decide) ?_ ?_
  · split
    · decide
    · split <;> omega
  · split
    · decide
    · split <;> omega

/-- A console carries the limited sum of what its monitored groups contribute (R112). -/
theorem consoleOut_eq (d : Part) (c : CtlNo) : d.consoleOut c = limitSum ((d.console c).monitor.map (d.mixTerm c)).sum := by
  unfold Part.consoleOut
  rw [foldl_mix, zero_add]

section frame
variable (rx : Vector RxSlot 24) (mics : Vector Sample 6) (d : Part)

theorem frame_transmit (i : TdmSlot) : tget (d.frame rx mics).transmit i = d.slotOut i := tget_ofFn ..

theorem frame_taken (i : TdmSlot) :
    tget (d.frame rx mics).taken i =
      if h : i.val < 24 then takenSample (tget rx ⟨i.val, h⟩) else tget mics ⟨i.val - 24, by omega⟩ := tget_ofFn ..

theorem slotOut_port {i : TdmSlot} {p : PortNo} (h : i.val = p.val) : d.slotOut i = d.radioOut p := by
  have hp : (⟨i.val, by omega⟩ : PortNo) = p := Fin.ext h
  unfold Part.slotOut
  rw [dif_pos (by omega), hp]

theorem slotOut_console {i : TdmSlot} {c : CtlNo} (h : i.val = 24 + c.val) : d.slotOut i = d.consoleOut c := by
  have hc : (⟨i.val - 24, by omega⟩ : CtlNo) = c := Fin.ext (by show i.val - 24 = c.val; omega)
  unfold Part.slotOut
  rw [dif_neg (by omega), hc]

theorem frame_taken_port {i : TdmSlot} {p : PortNo} (h : i.val = p.val) :
    tget (d.frame rx mics).taken i = if (tget rx p).valid = true then (tget rx p).data else 0 := by
  have hp : (⟨i.val, by omega⟩ : PortNo) = p := Fin.ext h
  rw [frame_taken, dif_pos (by omega), hp]
  rfl

theorem frame_taken_console {i : TdmSlot} {c : CtlNo} (h : i.val = 24 + c.val) :
    tget (d.frame rx mics).taken i = tget mics c := by
  have hc : (⟨i.val - 24, by omega⟩ : CtlNo) = c := Fin.ext (by show i.val - 24 = c.val; omega)
  rw [frame_taken, dif_neg (by omega), hc]

theorem frame_peaks (p : PortNo) :
    tget (d.frame rx mics).peaks p = max (tget d.peaks p) (magnitude (takenSample (tget rx p))) :=
  tget_tmap (fun p peak => max peak (magnitude (takenSample (tget rx p)))) d.peaks p

end frame

/-- The magnitude that a radio slot gives the level block, 0 without the qualifier (R109, R113). -/
theorem magnitude_takenSample (x : RxSlot) :
    magnitude (takenSample x) =
      let n := if x.valid = true then x.data.toInt.natAbs else 0
      if n > 32767 then 32767 else n := by
  unfold takenSample
  cases x.valid with
  | true => exact magnitude_eq _
  | false => simp [magnitude]

/-- Settles O48: the frame is taken from the part that the due events leave, and each table of samples is read slot by slot. -/
theorem tdmFrameRoutesTheSamples : Obligations.TdmFrameRoutesTheSamples := by
  intro rx mics s
  obtain ⟨m, hruns, hsame, hexec⟩ := tdmFrame_runs rx mics s
  refine ⟨m, hruns, hsame, m.frame rx mics, hexec, fun p i hi => ⟨?radio, frame_taken_port rx mics m hi⟩,
    fun c i hi => ⟨?console, frame_taken_console rx mics m hi⟩, fun p => ?peak, rfl⟩
  case radio =>
    rw [frame_transmit, slotOut_port m hi]
    exact radioOut_eq m p
  case console =>
    intro sum
    have hsum : ((m.console c).monitor.map (m.mixTerm c)).sum = sum :=
      congrArg List.sum (List.map_congr_left fun g _ => mixTerm_eq m c g)
    rw [frame_transmit, slotOut_console m hi, consoleOut_eq, limitSum_toInt, hsum]
  case peak => exact (frame_peaks rx mics m p).trans (congrArg _ (magnitude_takenSample _))

/-! Counts and timers. -/

theorem runTime_eq (r : PortRec) :
    r.runTime =
      let time := attackFrames (if r.carrier = true then r.settings.release else r.settings.attack)
      if time = 0 then 1 else time := by
  unfold PortRec.runTime
  rw [attack_eq]
  dsimp only
  by_cases h : attackFrames (if r.carrier = true then r.settings.release else r.settings.attack) = 0
  · rw [if_pos h, h]; rfl
  · rw [if_neg h]; omega

/-- The run of the filter counts on, from its time read at its start, or stops (R10, R11). -/
theorem filterFrame_eq (high : Bool) (r : PortRec) :
    r.filterFrame high =
      let running := ¬ r.Suppressed ∧ r.detects high ≠ r.carrier
      { r with
        runLength := if running then (if r.runCount = 0 then r.runTime else r.runLength) else r.runLength
        runCount := if running then r.runCount + 1 else 0 } := by
  have hiff : (r.suppressed = true ∨ r.rawDetect high = r.carrier) ↔ ¬ (¬ r.Suppressed ∧ r.detects high ≠ r.carrier) := by
    rw [suppressed_iff, detects_eq, not_and_or, not_not, not_not]
  unfold PortRec.filterFrame
  by_cases hrun : ¬ r.Suppressed ∧ r.detects high ≠ r.carrier
  · rw [if_neg (by rw [hiff]; exact not_not_intro hrun)]
    simp only [if_pos hrun]
  · rw [if_pos (hiff.2 hrun)]
    simp only [if_neg hrun]

/-- One frame at a port, every count and timer at once. -/
theorem portFrame_eq (loading : Bool) (x : RxSlot) (r : PortRec) :
    r.frame loading x =
      let running := ¬ r.Suppressed ∧ r.detects x.carrierHigh ≠ r.carrier
      { r with
        linkCount :=
          if loading = true then r.linkCount
          else if r.linkUp = true then (if x.valid = true then 0 else r.linkCount + 1)
          else if x.valid = true then r.linkCount + 1 else 0
        emergencyCount := if x.emergencyHigh = r.emergency then 0 else r.emergencyCount + 1
        runLength := if running then (if r.runCount = 0 then r.runTime else r.runLength) else r.runLength
        runCount := if running then r.runCount + 1 else 0
        restartTimer := Timer.earlier r.restartTimer
        guard := Timer.earlier r.guard
        transmitTimer := Timer.earlier r.transmitTimer
        carrierTimer := Timer.earlier r.carrierTimer
        cooldownTimer := Timer.earlier r.cooldownTimer } := by
  unfold PortRec.frame
  dsimp only
  rw [filterFrame_eq]
  cases loading <;> rfl

theorem groupFrame_eq (r : GroupRec) :
    r.tick = { r with holdTimer := Timer.earlier r.holdTimer, dissolveTimer := Timer.earlier r.dissolveTimer } := rfl

theorem floorFrame_eq (f : FloorRec) :
    f.tick =
      { f with hangTimer := Timer.earlier f.hangTimer, windowTimer := Timer.earlier f.windowTimer,
               preemptTimer := Timer.earlier f.preemptTimer } := rfl

theorem frame_storeOp (rx : Vector RxSlot 24) (mics : Vector Sample 6) (d : Part) :
    (d.frame rx mics).storeOp = d.storeOp.map fun op => { op with timeLeft := Timer.earlier op.timeLeft } := rfl

theorem frame_rest (rx : Vector RxSlot 24) (mics : Vector Sample 6) (d : Part) :
    (d.frame rx mics).consoles = d.consoles ∧ (d.frame rx mics).ctls = d.ctls ∧ (d.frame rx mics).slots = d.slots ∧
      (d.frame rx mics).portsRecord = d.portsRecord := by
  unfold Part.frame
  exact ⟨rfl, rfl, rfl, rfl⟩

/-- Settles O49: the same frame, record by record. -/
theorem tdmFrameCountsAndTimes : Obligations.TdmFrameCountsAndTimes := by
  intro rx mics s
  obtain ⟨m, hruns, hsame, hexec⟩ := tdmFrame_runs rx mics s
  refine ⟨m, hruns, hsame, m.frame rx mics, hexec, fun p => ?port, fun g => ?group, fun g => ?floor, frame_storeOp rx mics m,
    frame_rest rx mics m⟩
  case port => rw [frame_port, portFrame_eq, runTime_eq]
  case group => rw [frame_group, groupFrame_eq]
  case floor => rw [frame_floor, floorFrame_eq]

end Sys2Proof.Machine
end

section
/-!
PROOFS. The layout store (chapter 8): the store requests (R120 to R124) and the completions of a store, an erase and a read (R119,
R128).
-/

namespace Sys2Proof.Machine

/-! Operations that begin. -/

theorem exec_presetStore (c : CtlNo) (s : State) :
    exec (.presetStore c) s = s.run (Part.serve .presetStore presetStoreRequest c) := rfl
theorem exec_portsStore (c : CtlNo) (s : State) : exec (.portsStore c) s = s.run (Part.serve .portsStore portsStoreRequest c) := rfl
theorem exec_presetErase (c : CtlNo) (s : State) :
    exec (.presetErase c) s = s.run (Part.serve .presetErase presetEraseRequest c) := rfl
theorem exec_presetRead (c : CtlNo) (s : State) : exec (.presetRead c) s = s.run (Part.serve .presetRead presetReadRequest c) := rfl
theorem exec_presetRecall (c : CtlNo) (s : State) :
    exec (.presetRecall c) s = s.run (Part.serve .presetRecall presetRecallRequest c) := rfl

/-- An accepted request whose owner block defers its response keeps the reservation of the take (R137). -/
theorem deferred_of_reply {i : Instr} {k : ReqKind} {h : Handler} {c : CtlNo} {s : State} {f : List Byte} {t : Part}
    (hexec : exec i s = s.run (Part.serve k h c)) (hacc : s.part.accepts c k f)
    (hreply : h c (frameTag f) (frameParams f) (s.part.takeFrame c) = { part := t, answer := none }) :
    exec i s = .next { s with part := t } := by
  refine ex hexec ?_
  rw [serve_of_accepts h hacc, hreply]
  rfl

/-- An operation for port `c` that begins: the frame taken and its response deferred, the operation pending (R119, R137). -/
def Part.beginning (d : Part) (c : CtlNo) (tag : Byte) (kind : StoreKind) (time : Nat) : Part :=
  { d.deferredAt c with
    storeOp := some { kind, requester := some c, responseWanted := true, tag, timeLeft := some time } }

theorem startOp_takeFrame (d : Part) (c : CtlNo) (tag : Byte) (kind : StoreKind) (time : Nat) :
    (d.takeFrame c).startOp c tag kind time = { part := d.beginning c tag kind time, answer := none } := rfl

section requests
variable {c : CtlNo} {tag : Byte} {ps : List Byte} {d : Part} {slot : SlotNo}

/-- The bytes of a PRESET-STORE that names no slot, no group, a group out of range or a group twice (R120, R161). -/
abbrev BadStore (ps : List Byte) : Prop :=
  16 ≤ (arg ps 0).toNat ∨ (∃ b ∈ ps.drop 2, 12 ≤ b.toNat) ∨ ps.drop 2 = [] ∨ ¬ (ps.drop 2).Nodup

theorem presetStoreRequest_badValue (h : BadStore ps) : presetStoreRequest c tag ps d = reply .badValue d := by
  unfold presetStoreRequest
  obtain hslot | hrest := h
  · rw [numOf_none hslot]
  cases hgs : numsOf 12 (ps.drop 2) with
  | none => cases numOf 16 (arg ps 0) <;> rfl
  | some gs =>
    have hbytes := numsOf_map (by decide) hgs
    have hbad : gs = [] ∨ gs.length > 12 ∨ distinct gs = false := by
      obtain hrange | hempty | htwice := hrest
      · exact nomatch (numsOf_eq_none hrange).symm.trans hgs
      · exact .inl (List.map_eq_nil_iff.1 (hbytes.symm.trans hempty))
      · refine .inr (.inr (Bool.eq_false_iff.2 fun hd => htwice ?_))
        rw [hbytes, nodup_map (by decide)]
        exact (distinct_iff gs).1 hd
    cases numOf 16 (arg ps 0) with
    | none => rfl
    | some slot => exact if_pos hbad

theorem presetStoreRequest_named {gs : List GroupNo} (hslot : (arg ps 0).toNat = slot.val)
    (hgs : numsOf 12 (ps.drop 2) = some gs) (hne : gs ≠ []) (hnodup : gs.Nodup) :
    presetStoreRequest c tag ps d =
      if d.storeOp.isSome then reply .busy d
      else (d.setSlot slot none).startOp c tag (.presetStore slot (gs.map d.groupEntry)) Config.writeTime := by
  have hgood : ¬ (gs = [] ∨ gs.length > 12 ∨ distinct gs = false) := by
    have hfew : gs.length ≤ 12 := by simpa using hnodup.length_le_card
    rintro (h | h | h)
    · exact hne h
    · exact absurd h (not_lt.2 hfew)
    · exact absurd ((distinct_iff gs).2 hnodup) (by simp [h])
  unfold presetStoreRequest
  rw [numOf_some hslot, hgs]
  exact if_neg hgood

/-- Bytes that are not bad name a slot and a list of distinct groups. -/
theorem exists_of_not_badStore (h : ¬ BadStore ps) :
    ∃ (slot : SlotNo) (gs : List GroupNo), (arg ps 0).toNat = slot.val ∧ numsOf 12 (ps.drop 2) = some gs ∧ gs ≠ [] ∧ gs.Nodup := by
  obtain ⟨hslot, hrest⟩ := not_or.1 h
  obtain ⟨hrange, hrest⟩ := not_or.1 hrest
  obtain ⟨hne, hnodup⟩ := not_or.1 hrest
  obtain ⟨gs, hgs, hbytes, hiff⟩ := exists_numsOf (n := 12) (bs := ps.drop 2) (by decide) fun b hb =>
    not_le.1 fun hle => hrange ⟨b, hb, hle⟩
  exact ⟨⟨(arg ps 0).toNat, not_le.1 hslot⟩, gs, rfl, hgs, fun hgs => hne (by rw [hbytes, hgs]; rfl), hiff.1 (not_not.1 hnodup)⟩

theorem presetEraseRequest_badValue (h : 16 ≤ (arg ps 0).toNat) : presetEraseRequest c tag ps d = reply .badValue d := by
  unfold presetEraseRequest
  rw [numOf_none h]

theorem presetEraseRequest_named (h : (arg ps 0).toNat = slot.val) :
    presetEraseRequest c tag ps d =
      if d.storeOp.isSome then reply .busy d
      else (d.setSlot slot none).startOp c tag (.presetErase slot) Config.eraseTime := by
  unfold presetEraseRequest
  rw [numOf_some h]

theorem presetReadRequest_badValue (h : 16 ≤ (arg ps 0).toNat) : presetReadRequest c tag ps d = reply .badValue d := by
  unfold presetReadRequest
  rw [numOf_none h]

theorem presetReadRequest_named (h : (arg ps 0).toNat = slot.val) :
    presetReadRequest c tag ps d =
      if d.storeOp.isSome then reply .busy d else d.startOp c tag (.presetRead slot) Config.readTime := by
  unfold presetReadRequest
  rw [numOf_some h]

theorem presetRecallRequest_badValue (h : 16 ≤ (arg ps 0).toNat) : presetRecallRequest c tag ps d = reply .badValue d := by
  unfold presetRecallRequest
  rw [numOf_none h]

theorem presetRecallRequest_named (h : (arg ps 0).toNat = slot.val) :
    presetRecallRequest c tag ps d =
      if d.storeOp.isSome then reply .busy d else d.startOp c tag (.presetRecall slot) Config.readTime := by
  unfold presetRecallRequest
  rw [numOf_some h]

/-- A number in range is that of a slot. -/
theorem exists_slot {b : Byte} (h : ¬ 16 ≤ b.toNat) : ∃ slot : SlotNo, b.toNat = slot.val := ⟨⟨b.toNat, not_le.1 h⟩, rfl⟩

end requests

theorem storeOp_busy {d : Part} {c : CtlNo} (h : d.storeOp ≠ none) : (d.takeFrame c).storeOp.isSome = true := by
  rw [takeFrame_storeOp]
  exact Option.isSome_iff_ne_none.2 h

theorem storeOp_idle {d : Part} {c : CtlNo} (h : d.storeOp = none) : ¬ (d.takeFrame c).storeOp.isSome = true := by
  rw [takeFrame_storeOp, h]
  exact Bool.false_ne_true

theorem tget_portEntries (d : Part) (p : PortNo) : tget d.portEntries p = (d.port p).settings := tget_tmap ..

/-- Settles O50: each owner block refuses bad bytes, then a busy store, and otherwise begins its operation. -/
theorem storeOperationsStart : Obligations.StoreOperationsStart := by
  intro c s f badSlot started
  refine ⟨fun hacc => ?presetStore, fun hacc => ?portsStore, fun hacc => ?presetErase, fun hacc => ?presetRead,
    fun hacc => ?presetRecall⟩
  case presetStore =>
    intro named bad
    refine ⟨fun hbad => answered_of_reply (exec_presetStore c s) hacc (presetStoreRequest_badValue hbad), fun hgood hbusy => ?busy,
      fun slot gs hslot hgs hne hnodup hidle => ?begins⟩
    case busy =>
      obtain ⟨slot, gs, hslot, hgs, hne, hnodup⟩ := exists_of_not_badStore hgood
      exact answered_of_reply (exec_presetStore c s) hacc
        ((presetStoreRequest_named hslot hgs hne hnodup).trans (if_pos (storeOp_busy hbusy)))
    case begins =>
      have hgs' : numsOf 12 ((frameParams f).drop 2) = some gs := (congrArg _ hgs).trans (numsOf_of_map (by decide))
      exact deferred_of_reply (exec_presetStore c s) hacc
        ((presetStoreRequest_named hslot hgs' hne hnodup).trans (if_neg (storeOp_idle hidle)))
  case portsStore =>
    refine ⟨fun hbusy => answered_of_reply (exec_portsStore c s) hacc (if_pos (storeOp_busy hbusy)), fun hidle =>
      ⟨(s.part.takeFrame c).portEntries, fun p => tget_portEntries _ p,
        deferred_of_reply (exec_portsStore c s) hacc (if_neg (storeOp_idle hidle))⟩⟩
  case presetErase =>
    refine ⟨fun hbad => answered_of_reply (exec_presetErase c s) hacc (presetEraseRequest_badValue hbad), fun hgood hbusy => ?_,
      fun slot hslot hidle => deferred_of_reply (exec_presetErase c s) hacc
        ((presetEraseRequest_named hslot).trans (if_neg (storeOp_idle hidle)))⟩
    obtain ⟨slot, hslot⟩ := exists_slot hgood
    exact answered_of_reply (exec_presetErase c s) hacc ((presetEraseRequest_named hslot).trans (if_pos (storeOp_busy hbusy)))
  case presetRead =>
    refine ⟨fun hbad => answered_of_reply (exec_presetRead c s) hacc (presetReadRequest_badValue hbad), fun hgood hbusy => ?_,
      fun slot hslot hidle => deferred_of_reply (exec_presetRead c s) hacc
        ((presetReadRequest_named hslot).trans (if_neg (storeOp_idle hidle)))⟩
    obtain ⟨slot, hslot⟩ := exists_slot hgood
    exact answered_of_reply (exec_presetRead c s) hacc ((presetReadRequest_named hslot).trans (if_pos (storeOp_busy hbusy)))
  case presetRecall =>
    refine ⟨fun hbad => answered_of_reply (exec_presetRecall c s) hacc (presetRecallRequest_badValue hbad), fun hgood hbusy => ?_,
      fun slot hslot hidle => deferred_of_reply (exec_presetRecall c s) hacc
        ((presetRecallRequest_named hslot).trans (if_neg (storeOp_idle hidle)))⟩
    obtain ⟨slot, hslot⟩ := exists_slot hgood
    exact answered_of_reply (exec_presetRecall c s) hacc ((presetRecallRequest_named hslot).trans (if_pos (storeOp_busy hbusy)))

/-! Operations that complete. -/

/-- The deferred response of an operation that a request began: to its requester, if it is still wanted (R128, R137). -/
theorem deferred_answersFor {op : StoreOp} {k : ReqKind} (h : op.kind.request = some k) (st : Status) (data : List Byte) (d : Part) :
    d.deferred op st data = d.answersFor op k.code st data := by
  unfold Part.deferred Part.answersFor
  rw [h]
  cases op.requester <;> rfl

section completions
variable {d : Part} {op : StoreOp} {slot : SlotNo}

theorem presetStoreDone_of_kind {pre : Preset} (hop : d.storeOp = some op) (hk : op.kind = .presetStore slot pre) :
    d.presetStoreDone =
      { d.setSlot slot (some pre) with storeOp := none }.answersFor op 0x40 .ok (asBytes [slot.val]) := by
  have hreq : op.kind.request = some .presetStore := by rw [hk]; rfl
  unfold Part.presetStoreDone
  simp only [hop, hk]
  exact deferred_answersFor hreq ..

theorem portsStoreDone_of_kind {record : Vector PortSettings 24} (hop : d.storeOp = some op) (hk : op.kind = .portsStore record) :
    d.portsStoreDone = { d with portsRecord := some record, storeOp := none }.answersFor op 0x44 .ok [] := by
  have hreq : op.kind.request = some .portsStore := by rw [hk]; rfl
  unfold Part.portsStoreDone
  simp only [hop, hk]
  exact deferred_answersFor hreq ..

theorem presetEraseDone_of_kind (hop : d.storeOp = some op) (hk : op.kind = .presetErase slot) :
    d.presetEraseDone = { d with storeOp := none }.answersFor op 0x42 .ok (asBytes [slot.val]) := by
  have hreq : op.kind.request = some .presetErase := by rw [hk]; rfl
  unfold Part.presetEraseDone
  simp only [hop, hk]
  exact deferred_answersFor hreq ..

/-- The bytes of a preset are its numbers (R165). -/
theorem presetBytes_eq (pre : Preset) : presetBytes pre = asBytes (presetNumbers pre) := by
  have hentry (e : GroupEntry) : e.bytes = asBytes ([e.group.val, e.settings.hang + 32 * e.settings.preempt, e.settings.window,
      e.settings.dissolve, e.members.length] ++ e.members.map Fin.val) := by
    unfold GroupEntry.bytes
    rw [asBytes_append, map_portByte]
    rfl
  unfold presetBytes presetNumbers
  show _ = BitVec.ofNat 8 pre.length :: asBytes _
  rw [asBytes_flatMap]
  have hfun := funext hentry
  congr 1
  exact congrArg (fun f => pre.flatMap f) hfun

theorem presetReadDone_of_valid {pre : Preset} (hop : d.storeOp = some op) (hk : op.kind = .presetRead slot)
    (hpre : tget d.slots slot = some pre) :
    d.presetReadDone =
      { d with storeOp := none }.answersFor op 0x43 .ok (asBytes (slot.val :: presetNumbers pre)) := by
  have hreq : op.kind.request = some .presetRead := by rw [hk]; rfl
  unfold Part.presetReadDone
  simp only [hop, hk, hpre, presetBytes_eq]
  exact deferred_answersFor hreq ..

theorem presetReadDone_of_empty (hop : d.storeOp = some op) (hk : op.kind = .presetRead slot) (hpre : tget d.slots slot = none) :
    d.presetReadDone = { d with storeOp := none }.answersFor op 0x43 .noSuch [] := by
  have hreq : op.kind.request = some .presetRead := by rw [hk]; rfl
  unfold Part.presetReadDone
  simp only [hop, hk, hpre]
  exact deferred_answersFor hreq ..

end completions

/-- Settles O51: one equation for each completion, and its response. -/
theorem storeOperationsComplete : Obligations.StoreOperationsComplete := by
  intro s op hop
  exact ⟨fun slot pre hk => ex (f := Part.presetStoreDone) rfl (presetStoreDone_of_kind hop hk),
    fun record hk => ex (f := Part.portsStoreDone) rfl (portsStoreDone_of_kind hop hk),
    fun slot hk => ex (f := Part.presetEraseDone) rfl (presetEraseDone_of_kind hop hk),
    fun slot hk => ⟨fun pre hpre => ex (f := Part.presetReadDone) rfl (presetReadDone_of_valid hop hk hpre),
      fun hpre => ex (f := Part.presetReadDone) rfl (presetReadDone_of_empty hop hk hpre)⟩⟩

end Sys2Proof.Machine
end

section
/-!
PROOFS. The encodings (O53): the check of a frame read from its end, the kind codes, and settings as bytes.
-/

namespace Sys2Proof.Machine

/-! The check over a whole frame (R158): a register that ends at 0 took in its own two bytes, and nothing else. -/

/-- The generator is odd, so a bit that differs from the one that leaves the register stays in its lowest place. -/
theorem msb_eq_of_crcBit_shiftLeft {r : Word} {b : Bool} {m : Nat} (hm : m < 16) (h : crcBit r b <<< m = 0) : r.msb = b := by
  by_contra hne
  have hbit : (crcBit r b <<< m).getLsbD m = true := by
    rw [crcBit_eq, if_neg hne]
    simp [hm]
  rw [h] at hbit
  simp at hbit

/-- Bits that leave nothing in the low places of the register are those of its own high byte. -/
theorem bits_eq_of_foldl_crcBit_shiftLeft {r : Word} {b : Byte} {n : Nat} :
    ∀ {m : Nat}, n ≤ 8 → m + n ≤ 16 →
      (List.range n).foldl (fun q i => crcBit q (b.getLsbD (7 - i))) r <<< m = 0 →
      ∀ i < n, b.getLsbD (7 - i) = (r.extractLsb' 8 8).getLsbD (7 - i) := by
  induction n with
  | zero => exact fun _ _ _ i hi => absurd hi (Nat.not_lt_zero i)
  | succ n ih =>
    intro m hn hm h
    rw [List.range_succ, List.foldl_append, List.foldl_cons, List.foldl_nil] at h
    have hmsb := msb_eq_of_crcBit_shiftLeft (by omega) h
    rw [← hmsb, crcBit_msb, ← BitVec.shiftLeft_add] at h
    have hbits := ih (m := 1 + m) (by omega) (by omega) h
    have hfold : (List.range n).foldl (fun q i => crcBit q (b.getLsbD (7 - i))) r = r <<< n :=
      (List.foldl_ext _ _ r fun q i hi => by rw [hbits i (List.mem_range.1 hi)]).trans (foldl_crcBit_highByte r (by omega))
    intro i hi
    rcases Nat.lt_succ_iff_lt_or_eq.1 hi with hlt | rfl
    · exact hbits i hlt
    · rw [← hmsb, hfold, shiftLeft_msb_eq_highByte r (by omega)]

theorem byte_eq_of_crcByte_shiftLeft {r : Word} {b : Byte} {m : Nat} (hm : m ≤ 8) (h : crcByte r b <<< m = 0) :
    b = r.extractLsb' 8 8 := by
  have hdown : [7, 6, 5, 4, 3, 2, 1, 0] = (List.range 8).map (7 - ·) := rfl
  unfold crcByte at h
  rw [hdown, List.foldl_map] at h
  have hbits := bits_eq_of_foldl_crcBit_shiftLeft le_rfl (by omega) h
  refine BitVec.eq_of_getLsbD_eq fun i hi => ?_
  have hplace : 7 - (7 - i) = i := by omega
  simpa only [hplace] using hbits (7 - i) (by omega)

theorem wordOf_ownBytes (r : Word) : wordOf (r.extractLsb' 8 8) (r.extractLsb' 0 8) = r := by
  refine BitVec.eq_of_getLsbD_eq fun i hi => ?_
  rw [wordOf, BitVec.getLsbD_append]
  by_cases h : i < 8
  · simp [h]
  · simp [h, show i - 8 < 8 by omega, show 8 + (i - 8) = i by omega]

theorem highByte_wordOf (hi lo : Byte) : (wordOf hi lo).extractLsb' 8 8 = hi := BitVec.extractLsb'_append_eq_left

theorem lowByte_wordOf (hi lo : Byte) : (wordOf hi lo).extractLsb' 0 8 = lo := BitVec.extractLsb'_append_eq_right

/-- Two bytes bring the register to 0 exactly if they are its own. -/
theorem crcByte_crcByte_eq_zero_iff {r : Word} {hi lo : Byte} : crcByte (crcByte r hi) lo = 0 ↔ r = wordOf hi lo := by
  constructor
  · intro h
    have hlo := byte_eq_of_crcByte_shiftLeft (m := 0) (by omega) ((BitVec.shiftLeft_zero _).trans h)
    have hhi : hi = r.extractLsb' 8 8 := by
      refine byte_eq_of_crcByte_shiftLeft le_rfl (?_ : crcByte r hi <<< 8 = 0)
      rwa [hlo, crcByte_highByte] at h
    rw [hhi, crcByte_highByte, highByte_shiftLeft] at hlo
    rw [hhi, hlo]
    exact (wordOf_ownBytes r).symm
  · rintro rfl
    have h := crcByte_ownBytes (wordOf hi lo)
    rwa [highByte_wordOf, lowByte_wordOf] at h

/-- A frame of two bytes and more is its body and its check. -/
theorem exists_body_check {f : List Byte} (h : 2 ≤ f.length) : ∃ body hi lo, f = body ++ [hi, lo] := by
  rcases List.eq_nil_or_concat f with rfl | ⟨f, lo, rfl⟩
  · simp at h
  rcases List.eq_nil_or_concat f with rfl | ⟨body, hi, rfl⟩
  · simp at h
  exact ⟨body, hi, lo, by simp⟩

theorem frameCheckOk_append (body : List Byte) (hi lo : Byte) :
    frameCheckOk (body ++ [hi, lo]) = true ↔ crc body = wordOf hi lo := by
  have hbody : (body ++ [hi, lo]).length - 2 = body.length := by simp
  have hlast : (body ++ [hi, lo]).length - 1 = body.length + 1 := by simp
  unfold frameCheckOk
  rw [hbody, hlast]
  simp [List.getD]

theorem frameCheckOk_iff_crc {f : List Byte} (h : 2 ≤ f.length) : frameCheckOk f = true ↔ crc f = 0 := by
  obtain ⟨body, hi, lo, rfl⟩ := exists_body_check h
  rw [frameCheckOk_append, List.append_cons, crc_concat, crc_concat, crcByte_crcByte_eq_zero_iff]

/-! Request frames (R134, R136, R158, R162). -/

theorem length_requestFrame (k : ReqKind) (tag : Byte) (params : List Byte) :
    (requestFrame k tag params).length = params.length + 5 := by
  simp [requestFrame, sealFrame, wordBytes]

theorem frameParams_requestFrame (k : ReqKind) (tag : Byte) (params : List Byte) :
    frameParams (requestFrame k tag params) = params := by
  unfold frameParams
  rw [length_requestFrame]
  simp [requestFrame, sealFrame]

/-- A code names the kind that has it, and no other. -/
theorem reqKind_byte (b : Byte) (k : ReqKind) : ReqKind.ofByte b = some k ↔ k.code = b := by
  constructor
  · intro h
    simpa using List.find?_some h
  · rintro rfl
    cases k <;> rfl

theorem requestFrame_reads_back (k : ReqKind) (tag : Byte) {params : List Byte} (h : params.length ≤ 91) :
    (requestFrame k tag params).length = params.length + 5 ∧
      ((requestFrame k tag params).getD 0 0).toNat = (requestFrame k tag params).length ∧
      frameCheckOk (requestFrame k tag params) = true ∧ ReqKind.ofByte (frameKind (requestFrame k tag params)) = some k ∧
      frameTag (requestFrame k tag params) = tag ∧ frameParams (requestFrame k tag params) = params := by
  have hlen := length_requestFrame k tag params
  have hfirst : (requestFrame k tag params).getD 0 0 = byteOf (params.length + 5) := rfl
  refine ⟨hlen, ?_, ?_, (reqKind_byte _ k).2 rfl, rfl, frameParams_requestFrame k tag params⟩
  · rw [hfirst, hlen]
    exact Nat.mod_eq_of_lt (by omega)
  · exact (frameCheckOk_iff_crc (by omega)).2 (crc_sealFrame _)

theorem lengthFits_iff (k : ReqKind) (f : List Byte) :
    k.lengthFits f = true ↔ k.shortest ≤ f.length ∧ f.length = k.frameLength f := by
  unfold ReqKind.lengthFits
  rw [Bool.and_eq_true, decide_eq_true_iff, decide_eq_true_iff]

/-- A kind without a list has one length. -/
theorem lengthFits_of_fixed {k : ReqKind} {f : List Byte} {n : Nat} (hlength : k.frameLength f = n) (hshort : k.shortest ≤ n) :
    k.lengthFits f = true ↔ f.length = n := by
  rw [lengthFits_iff, hlength]
  exact ⟨And.right, fun h => ⟨h ▸ hshort, h⟩⟩

/-! Settings (R40, R160, R164). -/

theorem portSettings_read_back {v : PortSettings} (h : v.legal = true) :
    PortSettings.ofBytes v.owner (asBytes v.numbers) = some v := by
  rw [← numbers_bytes]
  exact (ofBytes_eq v.owner v.bytes rfl v).2 ⟨h, rfl, rfl⟩

theorem groupSettings_read_back {v : GroupSettings} (h : v.legal = true) :
    GroupSettings.ofBytes (BitVec.ofNat 8 v.hang) (BitVec.ofNat 8 v.window) (BitVec.ofNat 8 v.preempt) (BitVec.ofNat 8 v.dissolve) =
      some v := by
  have hv := h
  unfold GroupSettings.legal at hv
  simp only [Bool.and_eq_true, decide_eq_true_iff] at hv
  obtain ⟨⟨⟨⟨hhang, -⟩, hwindow⟩, hpreempt⟩, hdissolve⟩ := hv
  have hbyte {n : Nat} (hn : n < 256) : (BitVec.ofNat 8 n).toNat = n := Nat.mod_eq_of_lt hn
  unfold GroupSettings.ofBytes
  rw [hbyte (by omega : v.hang < 256), hbyte (by omega : v.window < 256), hbyte (by omega : v.preempt < 256),
    hbyte (by omega : v.dissolve < 256)]
  exact if_pos h

/-- Settles O53: the check from its two last bytes, the codes by cases on the kind, the lengths kind by kind. -/
theorem requestBytesReadBack : Obligations.RequestBytesReadBack := by
  refine ⟨fun k tag params h => requestFrame_reads_back k tag h, fun f h => frameCheckOk_iff_crc h, ?_, ?_,
    fun v => portSettings_read_back, fun v => groupSettings_read_back⟩
  · intro codes b k
    rw [reqKind_byte]
    cases k <;> simp [codes, ReqKind.code, eq_comm]
  · intro f
    refine ⟨?_, lengthFits_iff .noticeMask f, lengthFits_iff .consoleSet f, lengthFits_iff .presetStore f⟩
    simp only [List.forall_mem_cons, List.not_mem_nil, false_imp_iff, implies_true, and_true]
    refine ⟨?_, ?_, ?_, ?_, ?_, ?_, ?_, ?_, ?_, ?_, ?_, ?_, ?_, ?_, ?_, ?_, ?_, ?_, ?_, ?_, ?_, ?_, ?_, ?_⟩ <;>
      exact lengthFits_of_fixed rfl (by decide)

end Sys2Proof.Machine
end

section
/-!
PROOFS. What the floor arbiter can do at all, whatever the event: orders to radio ports, writes of one floor record, notices,
involvement of consoles, and the dissolve timer of that floor's group. Each operation of the arbiter is a run of such steps on one
group, which is shown once; what all the steps keep, every operation keeps.
-/

namespace Sys2Proof.Machine

/-- The orders and reports that change a port record at the arbiter's or the patch table's word (R14, R16 to R19, R88). -/
inductive PortOrder : (PortRec → PortRec) → Prop
  | key : PortOrder PortRec.key
  | unkey : PortOrder PortRec.unkey
  | grant : PortOrder PortRec.grant
  | preempt : PortOrder PortRec.preempt
  | strip : PortOrder PortRec.strip
  | removed : PortOrder PortRec.removed
  | endTalk : PortOrder PortRec.endTalk

theorem PortOrder.floorActed {f : PortRec → PortRec} (h : PortOrder f) (r : PortRec) : r.FloorActed (f r) := by
  cases h with
  | key => exact .key r
  | unkey => exact .unkey r
  | grant => exact .grant r
  | preempt => exact .preempt r
  | strip => exact .strip r
  | removed => exact .removed r
  | endTalk => exact .endTalk r

/-- One step of the arbiter at work on the floor of group `g`. -/
inductive Part.ActStep (g : GroupNo) : Part → Part → Prop
  | order (d : Part) (p : PortNo) {f : PortRec → PortRec} (h : PortOrder f) : ActStep g d (d.modPort p f)
  | floor (d : Part) (k : FloorRec → FloorRec) : ActStep g d (d.modFloor g k)
  | tell (d : Part) (rc : CtlNo → Bool) (n : Notice) (h : n.kind ≠ .layout) : ActStep g d (d.notify rc n)
  | involve (d : Part) (src : Source) (i : Involvement) : ActStep g d (d.involve src i)
  | refresh (d : Part) : ActStep g d (d.refreshDissolve g)

/-- From `d` to `t` by steps of the arbiter at work on the floor of group `g`. -/
def Part.Acts (g : GroupNo) : Part → Part → Prop := Relation.ReflTransGen (Part.ActStep g)

section acts
variable {g : GroupNo} {d e t : Part}

theorem Part.Acts.refl (d : Part) : d.Acts g d := Relation.ReflTransGen.refl

theorem Part.Acts.trans (h : Part.Acts g d e) (h' : Part.Acts g e t) : Part.Acts g d t := Relation.ReflTransGen.trans h h'

theorem Part.ActStep.acts (h : Part.ActStep g d t) : Part.Acts g d t := Relation.ReflTransGen.single h

/-- What every step of the arbiter keeps is kept. -/
theorem Part.Acts.keeps {P : Part → Prop} (hstep : ∀ d t, Part.ActStep g d t → P d → P t) (h : Part.Acts g d t) (hd : P d) : P t := by
  induction h with
  | refl => exact hd
  | tail _ hlast ih => exact hstep _ _ hlast ih

variable (d)

theorem Part.Acts.order (p : PortNo) {f : PortRec → PortRec} (h : PortOrder f) : d.Acts g (d.modPort p f) := (ActStep.order d p h).acts
theorem Part.Acts.modFloor (g : GroupNo) (k : FloorRec → FloorRec) : d.Acts g (d.modFloor g k) := (ActStep.floor d k).acts
theorem Part.Acts.notify (rc : CtlNo → Bool) (n : Notice) (h : n.kind ≠ .layout) : d.Acts g (d.notify rc n) := (ActStep.tell d rc n h).acts
theorem Part.Acts.involve (src : Source) (i : Involvement) : d.Acts g (d.involve src i) := (ActStep.involve d src i).acts
theorem Part.Acts.refreshDissolve (g : GroupNo) : d.Acts g (d.refreshDissolve g) := (ActStep.refresh d).acts

theorem Part.Acts.each {α : Type} (f : α → Part → Part) (h : ∀ a d, Part.Acts g d (f a d)) (l : List α) : d.Acts g (Part.each f l d) :=
  each_rel (Part.Acts g) f .refl (fun _ _ _ => .trans) h l d

/-! Notices. -/

theorem Part.Acts.floorNotice (h : GroupNo) (cause : FloorCause) : d.Acts g (d.floorNotice h cause) := .notify _ _ _ nofun
theorem Part.Acts.portNotice (p : PortNo) (cause : PortCause) : d.Acts g (d.portNotice p cause) := .notify _ _ _ nofun
theorem Part.Acts.lapseNotice (h : GroupNo) (cause : LapseCause) (src : Option Source) : d.Acts g (d.lapseNotice h cause src) := by
  rcases src with _ | _ | _
  · exact .refl d
  · exact .refl d
  · exact .notify _ _ _ nofun
theorem Part.Acts.carrierNotice (p : PortNo) (on : Bool) : d.Acts g (d.carrierNotice p on) := by
  unfold Part.carrierNotice
  dsimp only
  split
  · exact .notify _ _ _ nofun
  · exact .refl d
theorem Part.Acts.floorNoticeUnless (was : Bool) (h : GroupNo) (cause : FloorCause) : d.Acts g (d.floorNoticeUnless was h cause) := by
  unfold Part.floorNoticeUnless
  split
  · exact .refl d
  · exact .floorNotice _ _ _

end acts

/-! Sweeps, the holder, the waiting list. -/

section operations
variable (d : Part) (g : GroupNo)

theorem Part.Acts.vacate : d.Acts g (d.vacate g) := by
  unfold Part.vacate
  cases (d.floor g).holder with
  | none => exact .modFloor _ _ _
  | some src => exact (Part.Acts.involve d src .none).trans (.modFloor _ _ _)

theorem Part.Acts.keySweep : d.Acts g (d.keySweep g) := by
  refine .each d _ (fun p d => ?_) _
  unfold Part.keyMember
  split
  · exact .refl d
  · exact .order d p .key

theorem Part.Acts.unkeySweep : d.Acts g (d.unkeySweep g) := .each d _ (fun p d => .order d p .unkey) _

theorem Part.Acts.freeFloor : d.Acts g (d.freeFloor g) :=
  ((Part.Acts.vacate d g).trans (.modFloor _ _ _)).trans (.refreshDissolve _ _)

theorem Part.Acts.leaveList (src : Source) : d.Acts g (d.leaveList g src) := (Part.Acts.modFloor d g _).trans (.involve _ _ _)

theorem Part.Acts.leaveIfWaiting (p : PortNo) : d.Acts g (d.leaveIfWaiting g p) := by
  unfold Part.leaveIfWaiting
  split
  · exact .leaveList _ _ _
  · exact .refl d

theorem Part.Acts.joinList (e : Entry) : d.Acts g (d.joinList g e) := (Part.Acts.modFloor d g _).trans (.involve _ _ _)

/-! Grants and ends. -/

theorem Part.Acts.grantTo (src : Source) (mark : Bool) : d.Acts g (d.grantTo g src mark) := by
  unfold Part.grantTo
  dsimp only
  refine Part.Acts.trans ?_ ((Part.Acts.keySweep _ g).trans (.refreshDissolve _ g))
  have hgiven (k : FloorRec → FloorRec) : d.Acts g ((d.vacate g).modFloor g k) := (Part.Acts.vacate d g).trans (.modFloor _ _ _)
  cases src with
  | port p => exact (hgiven _).trans (.order _ p .grant)
  | console c => exact (hgiven _).trans (.involve _ _ _)

theorem Part.Acts.grantWinner (own : Option CtlNo) (e : Entry) (n : Nat) : d.Acts g (d.grantWinner g own e n) := by
  have hgrant : d.Acts g (((d.modFloor g fun f => { f with lowTurn := n }).leaveList g e.source).grantTo g e.source e.emergency) :=
    ((Part.Acts.modFloor d g _).trans (.leaveList _ g e.source)).trans (.grantTo _ g e.source e.emergency)
  unfold Part.grantWinner
  dsimp only
  split
  · exact hgrant
  · split
    · exact hgrant
    · exact hgrant.trans (.notify _ _ _ nofun)

theorem Part.Acts.passOn (own : Option CtlNo) : d.Acts g (d.passOn g own) := by
  unfold Part.passOn
  dsimp only
  split
  · exact .grantWinner _ _ _ _ _
  · exact (Part.Acts.freeFloor d g).trans (.unkeySweep _ _)

theorem Part.Acts.normalEnd : d.Acts g (d.normalEnd g) := by
  unfold Part.normalEnd
  refine ((Part.Acts.modFloor d g FloorRec.talkOver).trans ?_).trans (.floorNotice _ _ _)
  split
  · exact (Part.Acts.vacate _ _).trans (.passOn _ _ _)
  · exact .modFloor _ _ _

theorem Part.Acts.endNoHang (cause : FloorCause) : d.Acts g (d.endNoHang g cause) :=
  (((Part.Acts.vacate d g).trans (.modFloor _ _ _)).trans (.passOn _ _ _)).trans (.floorNotice _ _ _)

theorem Part.Acts.lapseGrant (cause : LapseCause) : d.Acts g (d.lapseGrant g cause) :=
  (Part.Acts.lapseNotice d g cause _).trans (.endNoHang _ _ _)

theorem Part.Acts.cut (own : Option CtlNo) : d.Acts g (d.cut g own) := by
  have hholder : d.Acts g (d.cutHolder g) := by
    unfold Part.cutHolder
    split
    · exact (Part.Acts.order d _ .preempt).trans (.portNotice _ _ _)
    · exact .lapseNotice _ _ _ _
  exact (hholder.trans (((Part.Acts.vacate _ g).trans (.modFloor _ _ _)).trans (.passOn _ _ _))).trans (.floorNotice _ _ _)

theorem Part.Acts.handOver (src : Source) : d.Acts g (d.handOver g src) :=
  (((Part.Acts.vacate d g).trans (.leaveList _ _ _)).trans (.grantTo _ _ _ _)).trans (.floorNotice _ _ _)

theorem Part.Acts.grantFromFree (src : Source) (mark : Bool) : d.Acts g (d.grantFromFree g src mark) :=
  (Part.Acts.grantTo d g src mark).trans (.floorNotice _ _ _)

/-! Claims. -/

theorem Part.Acts.emergencyArrived (src : Source) (own : Option CtlNo) : d.Acts g (d.emergencyArrived g src own) := by
  unfold Part.emergencyArrived
  dsimp only
  split
  · exact .refl d
  · split
    · exact .refl d
    · exact (Part.Acts.lapseNotice d _ _ _).trans (.handOver _ _ _)
  · split
    · exact .refl d
    · split
      · exact .cut _ _ _
      · exact .modFloor _ _ _
  · exact .handOver _ _ _

theorem Part.Acts.busyClaim (e : Entry) (own : Option CtlNo) : d.Acts g (d.busyClaim g e own) := by
  unfold Part.busyClaim
  dsimp only
  split
  · exact (Part.Acts.joinList d g e).trans (.emergencyArrived _ _ _ _)
  · exact .joinList _ _ _

theorem Part.Acts.floorRequest (p : PortNo) : d.Acts g (d.floorRequest g p) := by
  unfold Part.floorRequest
  dsimp only
  split
  · exact .grantFromFree _ _ _ _
  · split
    · exact ((Part.Acts.modFloor d g _).trans (.order _ p .grant)).trans (.floorNotice _ _ _)
    · exact .busyClaim _ _ _ _

theorem Part.Acts.markTalk : d.Acts g (d.markTalk g) := by
  unfold Part.markTalk
  split
  · exact .refl d
  · exact (Part.Acts.modFloor d g _).trans (.floorNotice _ _ _)

/-! Whole floors, joins and removals. -/

theorem Part.Acts.dropWaiters (cause : LapseCause) : d.Acts g (d.dropWaiters g cause) :=
  (Part.Acts.each d _ (fun _ d => (Part.Acts.involve d _ _).trans (.lapseNotice _ _ _ _)) _).trans (.modFloor _ _ _)

theorem Part.Acts.emptyFloor : d.Acts g (d.emptyFloor g) :=
  (((Part.Acts.lapseNotice d g _ _).trans (.dropWaiters _ _ _)).trans (.freeFloor _ _)).trans (.floorNoticeUnless _ _ _ _)

theorem Part.Acts.clearFloor (lapse : LapseCause) (cause : FloorCause) : d.Acts g (d.clearFloor g lapse cause) := by
  have hstrip (e : Part) : e.Acts g (e.stripHolder g) := by
    unfold Part.stripHolder
    split
    · exact .order _ _ .strip
    · exact .refl e
  exact (((((Part.Acts.lapseNotice d g _ _).trans (.dropWaiters _ _ _)).trans (hstrip _)).trans (.freeFloor _ _)).trans
    (.unkeySweep _ _)).trans (.floorNoticeUnless _ _ _ _)

theorem Part.Acts.reportRemoval (p : PortNo) : d.Acts g (d.reportRemoval g p) := by
  unfold Part.reportRemoval Part.removedRole
  refine (Part.Acts.order d p .removed).trans ?_
  dsimp only
  split
  · split
    · exact .endNoHang _ _ _
    · exact .leaveIfWaiting _ _ _
  · exact .emptyFloor _ _

theorem Part.Acts.reportJoin (p : PortNo) : d.Acts g (d.reportJoin g p) := by
  have hclaim (e : Part) : e.Acts g (e.claimOnJoin g p) := by
    unfold Part.claimOnJoin
    dsimp only
    split
    · exact .floorRequest _ _ _
    · exact .refl e
  unfold Part.reportJoin
  refine Part.Acts.trans ?_ (hclaim _)
  split
  · exact .refl d
  · exact .order d p .key

theorem Part.Acts.removeMembers (ms : List PortNo) :
    d.Acts g ((Part.each (fun p d => d.modPort p PortRec.removed) ms d).emptyFloor g) :=
  (Part.Acts.each d _ (fun p d => .order d p .removed) ms).trans (.emptyFloor _ _)

end operations

/-! Reports about one port go to the floor of its group. -/

section reports
variable (d : Part) (p : PortNo)

theorem acts_sourceLost : ∃ g, d.Acts g (d.sourceLost p) := by
  unfold Part.sourceLost
  split
  · exact ⟨0, .refl d⟩
  · next g _ =>
    refine ⟨g, ?_⟩
    split
    · exact .endNoHang _ _ _
    · exact .refl d

theorem acts_memberUnavailable : ∃ g, d.Acts g (d.memberUnavailable p) := by
  unfold Part.memberUnavailable
  split
  · exact ⟨0, .refl d⟩
  · next g _ =>
    refine ⟨g, ?_⟩
    split
    · exact .endNoHang _ _ _
    · exact .leaveIfWaiting _ _ _

theorem acts_reportLoss (was : PortState) : ∃ g, d.Acts g (d.reportLoss was p) := by
  unfold Part.reportLoss
  split
  · exact acts_sourceLost d p
  · exact acts_memberUnavailable d p
  · exact acts_memberUnavailable d p
  · exact ⟨0, .refl d⟩
  · exact ⟨0, .refl d⟩
  · exact ⟨0, .refl d⟩

theorem acts_carrierDrop : ∃ g, d.Acts g (d.carrierDrop p) := by
  unfold Part.carrierDrop
  split
  · dsimp only
    split
    · exact ⟨0, .order d p .endTalk⟩
    · next g _ =>
      refine ⟨g, (Part.Acts.order d p .endTalk).trans ?_⟩
      split
      · exact .normalEnd _ _
      · exact .refl _
  · split
    · exact ⟨0, .refl d⟩
    · next g _ => exact ⟨g, .leaveIfWaiting _ _ _⟩

theorem acts_emergencyRaised : ∃ g, d.Acts g (d.emergencyRaised p) := by
  unfold Part.emergencyRaised
  split
  · exact ⟨0, .refl d⟩
  · next g _ =>
    refine ⟨g, ?_⟩
    split
    · exact (Part.Acts.modFloor d _ _).trans (.emergencyArrived _ _ _ _)
    · split
      · exact .markTalk _ _
      · exact .refl d

theorem acts_claimIfMember : ∃ g, d.Acts g (d.claimIfMember p) := by
  unfold Part.claimIfMember
  split
  · split
    · exact ⟨0, .refl d⟩
    · next g _ => exact ⟨g, .floorRequest _ _ _⟩
  · exact ⟨0, .refl d⟩

theorem acts_endConsole (c : CtlNo) : ∃ g, d.Acts g (d.endConsole c) := by
  unfold Part.endConsole
  split
  · exact ⟨0, .refl d⟩
  · next g _ => exact ⟨g, .leaveList _ _ _⟩
  · next g _ => exact ⟨g, .endNoHang _ _ _⟩

end reports

/-! What every run of the arbiter keeps. -/

section kept
variable {g : GroupNo} {d t : Part}

theorem Part.Acts.quiet (h : Part.Acts g d t) : d.Quiet t := by
  refine h.keeps (P := d.Quiet) (fun e t hstep hquiet => hquiet.trans ?_) (.refl d)
  cases hstep with
  | order p hf => exact .modPort _ _ _ (hf.floorActed _)
  | floor k => exact .modFloor _ _ _
  | tell rc n _ => exact .notify _ _ _
  | involve src i => exact .involve _ _ _
  | refresh => exact .refresh _ _

/-- Group `k` and its floor stay as they are. -/
def Part.SameAt (k : GroupNo) (d t : Part) : Prop := t.group k = d.group k ∧ t.floor k = d.floor k

theorem Part.SameAt.refl (k : GroupNo) (d : Part) : d.SameAt k d := ⟨rfl, rfl⟩

theorem Part.SameAt.trans {k : GroupNo} {e : Part} (h : d.SameAt k e) (h' : e.SameAt k t) : d.SameAt k t :=
  ⟨h'.1.trans h.1, h'.2.trans h.2⟩

/-- Floors and groups other than the one at work stay as they are. -/
def Part.SameElsewhere (g : GroupNo) (d t : Part) : Prop := ∀ k, k ≠ g → d.SameAt k t

theorem Part.SameElsewhere.trans {e : Part} (h : d.SameElsewhere g e) (h' : e.SameElsewhere g t) : d.SameElsewhere g t :=
  fun k hk => (h k hk).trans (h' k hk)

theorem Part.Acts.elsewhere (h : Part.Acts g d t) : d.SameElsewhere g t := by
  refine h.keeps (P := d.SameElsewhere g) (fun e t hstep hsame => hsame.trans fun k hk => ?_) fun k _ => .refl k d
  cases hstep with
  | order p hf => exact ⟨rfl, rfl⟩
  | floor f => exact ⟨rfl, by rw [modFloor_floor, if_neg hk]⟩
  | tell rc n _ => exact ⟨rfl, rfl⟩
  | involve src i => exact ⟨involve_group .., involve_floor ..⟩
  | refresh => exact ⟨by rw [refreshDissolve_group, if_neg hk], rfl⟩

/-- A dissolve timer never starts but from its full time. -/
def GroupRec.FromFull (r : GroupRec) : Prop := r.dissolveTimer = none ∨ r.dissolveTimer = some (480000 * r.settings.dissolve)

theorem GroupRec.FromFull.timed {r : GroupRec} (h : r.FromFull) (free : Bool) : (r.timed free).FromFull := by
  unfold GroupRec.FromFull GroupRec.timed at *
  dsimp only
  split
  · rcases h with h | h <;> simp [h]
  · exact .inl rfl

theorem Part.Acts.fromFull {k : GroupNo} (h : Part.Acts g d t) (hd : (d.group k).FromFull) : (t.group k).FromFull := by
  refine h.keeps (P := fun e => (e.group k).FromFull) (fun e t hstep he => ?_) hd
  cases hstep with
  | order p hf => exact he
  | floor f => exact he
  | tell rc n _ => exact he
  | involve src i => rwa [involve_group]
  | refresh =>
    rw [refreshDissolve_group]
    split
    · next hk => exact (hk ▸ he).timed _
    · exact he

/-- A group without members, whose dissolve timer is stopped, is left as it is. -/
theorem Part.Acts.group_of_empty {k : GroupNo} (h : Part.Acts g d t) (hempty : (d.group k).members = [])
    (htimer : (d.group k).dissolveTimer = none) : t.group k = d.group k := by
  refine h.keeps (P := fun e => e.group k = d.group k) (fun e t hstep he => ?_) rfl
  cases hstep with
  | order p hf => exact he
  | floor f => exact he
  | tell rc n _ => exact he
  | involve src i => rwa [involve_group]
  | refresh =>
    rw [refreshDissolve_group]
    split
    · next hk =>
      rw [← hk, he]
      unfold GroupRec.timed
      rw [if_neg (by simp [hempty]), ← htimer]
    · exact he

/-- The notices a run of the arbiter sends to port `r`: none of them is a LAYOUT notice. -/
theorem Part.Acts.receives (h : Part.Acts g d t) (r : CtlNo) :
    ∃ ns : List Notice, t.ctl r = (d.ctl r).receives ns ∧ ∀ n ∈ ns, n.kind ≠ .layout := by
  refine h.keeps (P := fun e => ∃ ns, e.ctl r = (d.ctl r).receives ns ∧ ∀ n ∈ ns, n.kind ≠ NoticeKind.layout) ?_
    ⟨[], rfl, by simp⟩
  rintro e t hstep ⟨ns, hns, hkind⟩
  cases hstep with
  | order p hf => exact ⟨ns, hns, hkind⟩
  | floor f => exact ⟨ns, hns, hkind⟩
  | tell rc n hn =>
    refine ⟨ns ++ toAll rc n r, ?_, ?_⟩
    · rw [notify_receives, hns, receives_append]
    · unfold toAll
      intro m hm
      rw [List.mem_append] at hm
      rcases hm with hm | hm
      · exact hkind m hm
      · split at hm
        · rwa [List.mem_singleton.1 hm]
        · simp at hm
  | involve src i => exact ⟨ns, by rw [involve_ctl, hns], hkind⟩
  | refresh => exact ⟨ns, hns, hkind⟩

end kept

end Sys2Proof.Machine
end

section
/-!
PROOFS. What one step can do to the part: the effect of each command, what a take of a request comes to, and what the owner blocks
do with the requests they carry out. The invariants are kept by every step if they are kept by these.
-/

namespace Sys2Proof.Machine

/-- The effect of a command on the part. -/
def Instr.effect : Instr → Part → Part
  | .deviceReset => Part.deviceReset
  | .startUpLoadCompletion => Part.loadDone
  | .portResetAsserted c => Part.portResetAsserted c
  | .portResetReleased c => Part.portResetReleased c
  | .directionByte c part => Part.directionByte c part
  | .frameCompletion c bytes => Part.frameCompletion c bytes
  | .linkCycleEnd c => Part.linkCycleEnd c
  | .removal c => Part.removal c
  | .unknownKind c => Part.unknownKind c
  | .attach c => Part.serve .attach ReqKind.attach.handler c
  | .detach c => Part.serve .detach ReqKind.detach.handler c
  | .noticeMask c => Part.serve .noticeMask ReqKind.noticeMask.handler c
  | .groupRead c => Part.serve .groupRead ReqKind.groupRead.handler c
  | .groupAdd c => Part.serve .groupAdd ReqKind.groupAdd.handler c
  | .groupRemove c => Part.serve .groupRemove ReqKind.groupRemove.handler c
  | .groupSet c => Part.serve .groupSet ReqKind.groupSet.handler c
  | .groupDisband c => Part.serve .groupDisband ReqKind.groupDisband.handler c
  | .groupDigest c => Part.serve .groupDigest ReqKind.groupDigest.handler c
  | .hold c => Part.serve .hold ReqKind.hold.handler c
  | .release c => Part.serve .release ReqKind.release.handler c
  | .portRead c => Part.serve .portRead ReqKind.portRead.handler c
  | .portSet c => Part.serve .portSet ReqKind.portSet.handler c
  | .portClear c => Part.serve .portClear ReqKind.portClear.handler c
  | .portGive c => Part.serve .portGive ReqKind.portGive.handler c
  | .portClaim c => Part.serve .portClaim ReqKind.portClaim.handler c
  | .consoleSet c => Part.serve .consoleSet ReqKind.consoleSet.handler c
  | .talkRequest c => Part.serve .talkRequest ReqKind.talkRequest.handler c
  | .talkStart c => Part.serve .talkStart ReqKind.talkStart.handler c
  | .talkEnd c => Part.serve .talkEnd ReqKind.talkEnd.handler c
  | .talkCancel c => Part.serve .talkCancel ReqKind.talkCancel.handler c
  | .floorClear c => Part.serve .floorClear ReqKind.floorClear.handler c
  | .presetStore c => Part.serve .presetStore ReqKind.presetStore.handler c
  | .presetStoreCompletion => Part.presetStoreDone
  | .portsStore c => Part.serve .portsStore ReqKind.portsStore.handler c
  | .portsStoreCompletion => Part.portsStoreDone
  | .presetErase c => Part.serve .presetErase ReqKind.presetErase.handler c
  | .presetEraseCompletion => Part.presetEraseDone
  | .presetRead c => Part.serve .presetRead ReqKind.presetRead.handler c
  | .presetReadCompletion => Part.presetReadDone
  | .presetRecall c => Part.serve .presetRecall ReqKind.presetRecall.handler c
  | .presetRecallCompletion => Part.presetRecallDone
  | .emergencyStatusAsserted p => Part.emergencyAsserted p
  | .emergencyStatusReleased p => Part.emergencyReleased p
  | .linkLoss p => Part.linkLoss p
  | .linkReturn p => Part.linkReturn p
  | .restartTimerExpiry p => Part.restartTimerExpiry p
  | .restartPulseEnd p => Part.restartPulseEnd p
  | .guardEnd p => Part.guardEnd p
  | .qualifiedCarrierYes p => Part.carrierYes p
  | .qualifiedCarrierNo p => Part.carrierNo p
  | .levelBlockEnd => Part.levelBlockEnd
  | .tdmFrame rx mics => Part.tdmFrame rx mics
  | .transmitLimitExpiry p => Part.transmitLimitExpiry p
  | .carrierLimitExpiry p => Part.carrierLimitExpiry p
  | .cooldownExpiry p => Part.cooldownExpiry p
  | .hangTimerExpiry g => Part.hangExpiry g
  | .grantWindowExpiry g => Part.windowExpiry g
  | .preemptTimerExpiry g => Part.preemptExpiry g
  | .dissolveTimerExpiry g => Part.dissolveExpiry g
  | .holdTimerExpiry g => Part.holdExpiry g

theorem exec_effect (i : Instr) (s : State) : exec i s = s.run (Instr.effect i) := by
  cases i <;> rfl

/-- A step idles or has the effect of one command, so what every effect keeps, every step keeps. -/
theorem step_keeps {P : Part → Prop} (heffect : ∀ i d, P d → P (Instr.effect i d)) {s s' : State} (hs : P s.part)
    (hstep : step s = .next s') : P s'.part := by
  unfold step at hstep
  split at hstep
  · injection hstep with h
    exact h ▸ hs
  · rw [exec_effect] at hstep
    injection hstep with h
    exact h ▸ heffect _ _ hs

/-! Takes (R135, R136). -/

/-- The frame a take would take, with the room for its response. -/
theorem offers_of_takeable {d : Part} {c : CtlNo} {f : List Byte} (h : d.takeable c = some f) : d.offers c f := by
  refine ⟨takeable_head h, ?_⟩
  by_contra hroom
  rw [takeable_of_no_room (.inr (by omega))] at h
  exact nomatch h

/-- A take does nothing, or refuses the frame, or hands it to the owner block of its kind. -/
theorem serve_cases (k : ReqKind) (h : Handler) (c : CtlNo) (d : Part) :
    Part.serve k h c d = d ∨
      ∃ f, d.offers c f ∧
        ((∃ st, Part.serve k h c d = (d.takeFrame c).respond c (frameKind f) (frameTag f) st []) ∨
          (((d.ctl c).attached = true ∨ k = .attach) ∧ d.loading = false ∧
            Part.serve k h c d = Part.answer c f (h c (frameTag f) (frameParams f) (d.takeFrame c)))) := by
  cases ht : d.takeable c with
  | none => exact .inl (serve_of_not_takeable k h ht)
  | some f =>
    by_cases hk : ReqKind.ofByte (frameKind f) = some k
    · have ho := offers_of_takeable ht
      refine .inr ⟨f, ho, ?_⟩
      cases hr : (d.takeFrame c).refusal c f with
      | some st => exact .inl ⟨st, serve_of_refusal h ho hk hr⟩
      | none =>
        have hok : frameCheckOk f = true := by
          by_contra hbad
          rw [refusal_frameCheck (Bool.eq_false_iff.2 hbad)] at hr
          exact nomatch hr
        rw [refusal_of_kind hok hk, takeFrame_attached, takeFrame_loading] at hr
        have hlength : k.lengthFits f = true := by
          by_contra hbad
          rw [if_pos (Bool.eq_false_iff.2 hbad)] at hr
          exact nomatch hr
        rw [if_neg (by simp [hlength])] at hr
        have hdetached : ¬ ((d.ctl c).attached = false ∧ k ≠ .attach) := fun hbad => by
          rw [if_pos hbad] at hr
          exact nomatch hr
        rw [if_neg hdetached] at hr
        have hloading : d.loading = false := by
          by_contra hbad
          rw [if_pos (Bool.eq_true_of_not_eq_false hbad)] at hr
          exact nomatch hr
        have hattached : (d.ctl c).attached = true ∨ k = .attach := by
          by_contra hbad
          rw [not_or] at hbad
          exact hdetached ⟨Bool.eq_false_iff.2 hbad.1, hbad.2⟩
        exact .inr ⟨hattached, hloading, serve_of_accepts h ⟨ho, hok, hk, hlength, hattached, hloading⟩⟩
    · exact .inl (serve_of_other_kind h ht hk)

theorem unknownKind_cases (c : CtlNo) (d : Part) :
    d.unknownKind c = d ∨
      ∃ f st, d.offers c f ∧ d.unknownKind c = (d.takeFrame c).respond c (frameKind f) (frameTag f) st [] := by
  cases ht : d.takeable c with
  | none => exact .inl (unknownKind_of_not_takeable ht)
  | some f =>
    cases hk : ReqKind.ofByte (frameKind f) with
    | some k => exact .inl (unknownKind_of_known ht hk)
    | none =>
      refine .inr ⟨f, ((d.takeFrame c).refusal c f).getD .unknownKind, offers_of_takeable ht, ?_⟩
      unfold Part.unknownKind
      simp only [ht, hk, if_true]

/-! What the owner blocks do. -/

/-- From `d` to `t` an answered request of controller `c` of kind `k` is carried out. Reading requests and refusals leave `d`. -/
inductive Part.CarriesOut (c : CtlNo) : ReqKind → Part → Part → Prop
  | nothing {k} (d : Part) : CarriesOut c k d d
  | attach (d : Part) (mode : AttnMode) (pol : Polarity) : CarriesOut c .attach d (d.attach c mode pol)
  | detach {k} (d : Part) : CarriesOut c k d (d.detach c)
  | noticeMask {k} (d : Part) (ks : List NoticeKind) : CarriesOut c k d (d.modCtl c fun q => { q with mask := maskOf ks })
  | groupAdd {k} (d : Part) (g : GroupNo) (p : PortNo) (h : p ∉ (d.group g).members) : CarriesOut c k d (d.groupAdd g p)
  | groupRemove {k} (d : Part) (g : GroupNo) (p : PortNo) (h : p ∈ (d.group g).members) : CarriesOut c k d (d.groupRemove g p)
  | groupSet {k} (d : Part) (g : GroupNo) {s : GroupSettings} (h : s.legal = true) : CarriesOut c k d (d.groupSet g s)
  | groupDisband {k} (d : Part) (g : GroupNo) : CarriesOut c k d (d.groupDisband g)
  | hold (d : Part) {g : GroupNo} (h : (d.group g).holdHolder = none) (hone : ∀ h, (d.group h).holdHolder ≠ some c) :
    CarriesOut c .hold d (d.beginHold c g)
  | release {k} (d : Part) (g : GroupNo) : CarriesOut c k d (d.endHold g)
  | portSet {k} (d : Part) (p : PortNo) {s : PortSettings} (h : s.legal = true) : CarriesOut c k d (d.portSet p s)
  | portClear {k} (d : Part) {p : PortNo} (h : (d.port p).state = .cooldown ∨ (d.port p).state = .latched) :
    CarriesOut c k d (d.portClear p)
  | setOwner {k} (d : Part) (p : PortNo) (owner : CtlNo) : CarriesOut c k d (d.setOwner p owner)
  | consoleSet {k} (d : Part) (cls : SrcClass) (gs : List GroupNo) : CarriesOut c k d (d.consoleSet c cls gs)
  | talkRequest {k} (d : Part) {g : GroupNo} (em : Bool) (hformed : (d.group g).members ≠ [])
      (hinv : (d.console c).involvement = .none ∨
        (d.console c).involvement = .holder g ∧ (d.floor g).state ≠ .pending ∧ (d.floor g).state ≠ .talk) :
    CarriesOut c k d (d.talkRequest c g em).part
  | talkStart {k} (d : Part) {g : GroupNo} (hinv : (d.console c).involvement = .holder g) (h : (d.floor g).state = .pending) :
    CarriesOut c k d (d.talkStart g)
  | talkEnd {k} (d : Part) {g : GroupNo} (hinv : (d.console c).involvement = .holder g) (h : (d.floor g).state = .talk) :
    CarriesOut c k d (d.normalEnd g)
  | leaveList {k} (d : Part) {g : GroupNo} (hinv : (d.console c).involvement = .waiter g) :
    CarriesOut c k d (d.leaveList g (.console c))
  | lapseGrant {k} (d : Part) {g : GroupNo} (hinv : (d.console c).involvement = .holder g) (h : (d.floor g).state = .pending) :
    CarriesOut c k d (d.lapseGrant g .cancelled)
  | clearFloor {k} (d : Part) (g : GroupNo) : CarriesOut c k d (d.clearFloor g .cleared .cleared)

/-- From `d` to `t` the store is made ready for an operation of kind `kind`: what is to be written or erased stands EMPTY. -/
inductive Part.Prepares (d : Part) : Part → StoreKind → Prop
  | presetStore (slot : SlotNo) {gs : List GroupNo} (h : gs.Nodup) :
    Prepares d (d.setSlot slot none) (.presetStore slot (gs.map d.groupEntry))
  | portsStore : Prepares d { d with portsRecord := none } (.portsStore d.portEntries)
  | presetErase (slot : SlotNo) : Prepares d (d.setSlot slot none) (.presetErase slot)
  | presetRead (slot : SlotNo) : Prepares d d (.presetRead slot)
  | presetRecall (slot : SlotNo) : Prepares d d (.presetRecall slot)

/-- What an owner block may reply to a request of kind `k`: it answers, having carried it out, or an operation starts in the idle
store. -/
inductive Reply.Sound (c : CtlNo) (tag : Byte) (k : ReqKind) (d : Part) : Reply → Prop
  | answers {t : Part} (a : Status × List Byte) (h : Part.CarriesOut c k d t) : Sound c tag k d ⟨t, some a⟩
  | starts {e : Part} {kind : StoreKind} (time : Nat) (hidle : d.storeOp = none) (h : d.Prepares e kind) :
    Sound c tag k d (e.startOp c tag kind time)

/-- The part an owner block works on: the hold timer of a group that the request names may have been renewed first (R64). -/
def Part.RenewedBy (c : CtlNo) (d e : Part) : Prop := e = d ∨ ∃ g, e = d.renewed c g

theorem renewedBy_touchNamed (c : CtlNo) (b : Byte) (d : Part) : d.RenewedBy c (d.touchNamed c b) := by
  unfold Part.touchNamed
  cases numOf 12 b with
  | none => exact .inl rfl
  | some g => exact .inr ⟨g, touchHold_renewed d c g⟩

section handlers
variable (c : CtlNo) (tag : Byte) (ps : List Byte) (d : Part) {k : ReqKind}

theorem Reply.Sound.refused (st : Status) : Reply.Sound c tag k d (reply st d) := .answers _ (.nothing d)
theorem Reply.Sound.read (data : List Byte) : Reply.Sound c tag k d (replyOk data d) := .answers _ (.nothing d)

/-! Links. -/

theorem attachRequest_sound : Reply.Sound c tag .attach d (attachRequest c tag ps d) := by
  unfold attachRequest
  split
  · exact .answers _ (.attach d _ _)
  · exact .refused c tag d _

theorem noticeMaskRequest_sound : Reply.Sound c tag k d (noticeMaskRequest c tag ps d) := by
  unfold noticeMaskRequest
  split
  · exact .refused c tag d _
  · split
    · exact .answers _ (.noticeMask d _)
    · exact .refused c tag d _

/-! The layout. -/

theorem groupReadRequest_sound : Reply.Sound c tag k (d.touchNamed c (arg ps 0)) (groupReadRequest c tag ps d) := by
  unfold groupReadRequest
  generalize d.touchNamed c (arg ps 0) = e
  dsimp only
  split
  · exact .refused c tag e _
  · exact .read c tag e _

theorem groupAddRequest_sound : Reply.Sound c tag k (d.touchNamed c (arg ps 0)) (groupAddRequest c tag ps d) := by
  unfold groupAddRequest
  generalize d.touchNamed c (arg ps 0) = e
  dsimp only
  split
  · next g p _ _ =>
    split
    · exact .refused c tag e _
    · split
      · exact .answers _ (.nothing e)
      · split
        · exact .refused c tag e _
        · next hmem => exact .answers _ (.groupAdd e g p (by simpa using hmem))
  · exact .refused c tag e _

theorem groupRemoveRequest_sound : Reply.Sound c tag k (d.touchNamed c (arg ps 0)) (groupRemoveRequest c tag ps d) := by
  unfold groupRemoveRequest
  generalize d.touchNamed c (arg ps 0) = e
  dsimp only
  split
  · split
    · exact .refused c tag e _
    · split
      · exact .answers _ (.nothing e)
      · split
        · next hmem => exact .answers _ (.groupRemove e _ _ (by simpa using hmem))
        · exact .refused c tag e _
  · exact .refused c tag e _

theorem legal_of_groupSettings {b0 b1 b2 b3 : Byte} {v : GroupSettings} (h : GroupSettings.ofBytes b0 b1 b2 b3 = some v) :
    v.legal = true := by
  unfold GroupSettings.ofBytes at h
  dsimp only at h
  split at h
  · next hl => injection h with h; exact h ▸ hl
  · exact nomatch h

theorem groupSetRequest_sound : Reply.Sound c tag k (d.touchNamed c (arg ps 0)) (groupSetRequest c tag ps d) := by
  unfold groupSetRequest
  generalize d.touchNamed c (arg ps 0) = e
  dsimp only
  split
  · next hset =>
    split
    · exact .refused c tag e _
    · split
      · exact .answers _ (.nothing e)
      · exact .answers _ (.groupSet e _ (legal_of_groupSettings hset))
  · exact .refused c tag e _

theorem groupDisbandRequest_sound : Reply.Sound c tag k (d.touchNamed c (arg ps 0)) (groupDisbandRequest c tag ps d) := by
  unfold groupDisbandRequest
  generalize d.touchNamed c (arg ps 0) = e
  dsimp only
  split
  · exact .refused c tag e _
  · split
    · exact .refused c tag e _
    · split
      · exact .answers _ (.nothing e)
      · exact .answers _ (.groupDisband e _)

theorem groupDigestRequest_sound : Reply.Sound c tag k d (groupDigestRequest c tag ps d) := by
  unfold groupDigestRequest
  dsimp only
  split
  · exact .refused c tag d _
  · exact .read c tag d _

theorem holdRequest_sound : Reply.Sound c tag .hold (d.touchNamed c (arg ps 0)) (holdRequest c tag ps d) := by
  unfold holdRequest
  generalize d.touchNamed c (arg ps 0) = e
  dsimp only
  split
  · exact .refused c tag e _
  · split
    · split
      · exact .read c tag e _
      · exact .answers _ (.nothing e)
    · next hnone =>
      split
      · exact .refused c tag e _
      · next hone =>
        split
        · exact .answers _ (.nothing e)
        · exact .answers _ (.hold e hnone fun h hh => hone ((heldBy_isSome e c).2 ⟨h, hh⟩))

theorem releaseRequest_sound : Reply.Sound c tag k d (releaseRequest c tag ps d) := by
  unfold releaseRequest
  split
  · exact .refused c tag d _
  · split
    · exact .answers _ (.release d _)
    · exact .refused c tag d _

/-! The radio ports. -/

theorem portReadRequest_sound : Reply.Sound c tag k d (portReadRequest c tag ps d) := by
  unfold portReadRequest
  split
  · exact .refused c tag d _
  · exact .read c tag d _

theorem legal_of_portSettings {owner : CtlNo} {ps : List Byte} {v : PortSettings} (h : PortSettings.ofBytes owner ps = some v) :
    v.legal = true := by
  unfold PortSettings.ofBytes at h
  simp only [bind, Option.bind_eq_some_iff] at h
  obtain ⟨_, _, _, _, _, _, _, _, _, _, _, _, _, _, _, _, _, _, _, _, h⟩ := h
  split at h
  · next hl => injection h with h; exact h ▸ hl
  · exact nomatch h

theorem portSetRequest_sound : Reply.Sound c tag k d (portSetRequest c tag ps d) := by
  unfold portSetRequest
  split
  · exact .refused c tag d _
  · split
    · exact .refused c tag d _
    · next hset =>
      split
      · exact .refused c tag d _
      · exact .answers _ (.portSet d _ (legal_of_portSettings hset))

theorem portClearRequest_sound : Reply.Sound c tag k d (portClearRequest c tag ps d) := by
  unfold portClearRequest
  split
  · exact .refused c tag d _
  · split
    · exact .refused c tag d _
    · split
      · next hout => exact .answers _ (.portClear d hout)
      · exact .refused c tag d _

theorem portGiveRequest_sound : Reply.Sound c tag k d (portGiveRequest c tag ps d) := by
  unfold portGiveRequest
  split
  · split
    · exact .refused c tag d _
    · exact .answers _ (.setOwner d _ _)
  · exact .refused c tag d _

theorem portClaimRequest_sound : Reply.Sound c tag k d (portClaimRequest c tag ps d) := by
  unfold portClaimRequest
  split
  · exact .refused c tag d _
  · split
    · exact .refused c tag d _
    · exact .answers _ (.setOwner d _ _)

/-! The consoles. -/

theorem consoleSetRequest_sound : Reply.Sound c tag k d (consoleSetRequest c tag ps d) := by
  unfold consoleSetRequest
  split
  · split
    · exact .answers _ (.consoleSet d _ _)
    · exact .refused c tag d _
  · exact .refused c tag d _

/-- What the checks of TALK-REQUEST leave of a console's involvement (R81). -/
theorem involvement_of_talkCheck {g : GroupNo} (h : d.talkCheck c g = none) :
    (d.group g).members ≠ [] ∧ ((d.console c).involvement = .none ∨
      (d.console c).involvement = .holder g ∧ (d.floor g).state ≠ .pending ∧ (d.floor g).state ≠ .talk) := by
  unfold Part.talkCheck at h
  split at h
  · exact nomatch h
  · next hformed =>
    refine ⟨(formed_iff _).1 (by simpa using hformed), ?_⟩
    split at h
    · next hinv => exact .inl hinv
    · split at h <;> exact nomatch h
    · next k hinv =>
      split at h
      · exact nomatch h
      · next hg =>
        split at h
        · exact nomatch h
        · next hst =>
          rw [not_or] at hst
          exact .inr ⟨by rw [hinv, not_not.1 hg], hst⟩

theorem answer_talkRequest (g : GroupNo) (em : Bool) : ∃ a, d.talkRequest c g em = ⟨(d.talkRequest c g em).part, some a⟩ := by
  unfold Part.talkRequest
  dsimp only
  split
  · exact ⟨_, rfl⟩
  · split
    · exact ⟨_, rfl⟩
    · exact ⟨_, rfl⟩

theorem talkRequestRequest_sound : Reply.Sound c tag k (d.touchNamed c (arg ps 0)) (talkRequestRequest c tag ps d) := by
  unfold talkRequestRequest
  generalize d.touchNamed c (arg ps 0) = e
  dsimp only
  split
  · next g em _ _ =>
    split
    · exact .refused c tag e _
    · next hcheck =>
      obtain ⟨hformed, hinv⟩ := involvement_of_talkCheck c e hcheck
      obtain ⟨a, ha⟩ := answer_talkRequest c e g em
      rw [ha]
      exact .answers a (.talkRequest e em hformed hinv)
  · exact .refused c tag e _

theorem talkStartRequest_sound : Reply.Sound c tag k d (talkStartRequest c tag ps d) := by
  unfold talkStartRequest
  split
  · next hinv =>
    split
    · next hst => exact .answers _ (.talkStart d hinv hst)
    · exact .refused c tag d _
  · exact .refused c tag d _
  · exact .refused c tag d _

theorem talkEndRequest_sound : Reply.Sound c tag k d (talkEndRequest c tag ps d) := by
  unfold talkEndRequest
  split
  · next hinv =>
    split
    · next hst => exact .answers _ (.talkEnd d hinv hst)
    · exact .refused c tag d _
  · exact .refused c tag d _
  · exact .refused c tag d _

theorem talkCancelRequest_sound : Reply.Sound c tag k d (talkCancelRequest c tag ps d) := by
  unfold talkCancelRequest
  split
  · next hinv => exact .answers _ (.leaveList d hinv)
  · next hinv =>
    split
    · next hst => exact .answers _ (.lapseGrant d hinv hst)
    · exact .refused c tag d _
  · exact .refused c tag d _

theorem floorClearRequest_sound : Reply.Sound c tag k (d.touchNamed c (arg ps 0)) (floorClearRequest c tag ps d) := by
  unfold floorClearRequest
  generalize d.touchNamed c (arg ps 0) = e
  dsimp only
  split
  · exact .refused c tag e _
  · split
    · exact .refused c tag e _
    · split
      · exact .read c tag e _
      · exact .answers _ (.clearFloor e _)

/-! The store. -/

theorem storeOp_eq_none (h : ¬ d.storeOp.isSome = true) : d.storeOp = none := by simpa using h

theorem presetStoreRequest_sound : Reply.Sound c tag k d (presetStoreRequest c tag ps d) := by
  unfold presetStoreRequest
  split
  · next slot gs _ _ =>
    split
    · exact .refused c tag d _
    · next hlegal =>
      split
      · exact .refused c tag d _
      · next hbusy =>
        have hdistinct : distinct gs = true := by
          by_contra hbad
          exact hlegal (.inr (.inr (Bool.eq_false_iff.2 hbad)))
        exact .starts _ (storeOp_eq_none d hbusy) (.presetStore slot ((distinct_iff gs).1 hdistinct))
  · exact .refused c tag d _

theorem portsStoreRequest_sound : Reply.Sound c tag k d (portsStoreRequest c tag ps d) := by
  unfold portsStoreRequest
  split
  · exact .refused c tag d _
  · next hbusy => exact .starts _ (storeOp_eq_none d hbusy) .portsStore

theorem presetEraseRequest_sound : Reply.Sound c tag k d (presetEraseRequest c tag ps d) := by
  unfold presetEraseRequest
  split
  · exact .refused c tag d _
  · next slot _ =>
    split
    · exact .refused c tag d _
    · next hbusy => exact .starts _ (storeOp_eq_none d hbusy) (.presetErase slot)

theorem presetReadRequest_sound : Reply.Sound c tag k d (presetReadRequest c tag ps d) := by
  unfold presetReadRequest
  split
  · exact .refused c tag d _
  · next slot _ =>
    split
    · exact .refused c tag d _
    · next hbusy => exact .starts _ (storeOp_eq_none d hbusy) (.presetRead slot)

theorem presetRecallRequest_sound : Reply.Sound c tag k d (presetRecallRequest c tag ps d) := by
  unfold presetRecallRequest
  split
  · exact .refused c tag d _
  · next slot _ =>
    split
    · exact .refused c tag d _
    · next hbusy => exact .starts _ (storeOp_eq_none d hbusy) (.presetRecall slot)

/-- Every owner block keeps to what a reply may be. -/
theorem handler_sound (k : ReqKind) : ∃ e, d.RenewedBy c e ∧ Reply.Sound c tag k e (k.handler c tag ps d) := by
  have hplain {r : Reply} (h : Reply.Sound c tag k d r) : ∃ e, d.RenewedBy c e ∧ Reply.Sound c tag k e r := ⟨d, .inl rfl, h⟩
  have hnamed {r : Reply} (h : Reply.Sound c tag k (d.touchNamed c (arg ps 0)) r) :
      ∃ e, d.RenewedBy c e ∧ Reply.Sound c tag k e r := ⟨_, renewedBy_touchNamed c _ d, h⟩
  cases k with
  | attach => exact hplain (attachRequest_sound c tag ps d)
  | detach => exact hplain (.answers _ (.detach d))
  | noticeMask => exact hplain (noticeMaskRequest_sound c tag ps d)
  | groupRead => exact hnamed (groupReadRequest_sound c tag ps d)
  | groupAdd => exact hnamed (groupAddRequest_sound c tag ps d)
  | groupRemove => exact hnamed (groupRemoveRequest_sound c tag ps d)
  | groupSet => exact hnamed (groupSetRequest_sound c tag ps d)
  | groupDisband => exact hnamed (groupDisbandRequest_sound c tag ps d)
  | groupDigest => exact hplain (groupDigestRequest_sound c tag ps d)
  | hold => exact hnamed (holdRequest_sound c tag ps d)
  | release => exact hplain (releaseRequest_sound c tag ps d)
  | portRead => exact hplain (portReadRequest_sound c tag ps d)
  | portSet => exact hplain (portSetRequest_sound c tag ps d)
  | portClear => exact hplain (portClearRequest_sound c tag ps d)
  | portGive => exact hplain (portGiveRequest_sound c tag ps d)
  | portClaim => exact hplain (portClaimRequest_sound c tag ps d)
  | consoleSet => exact hplain (consoleSetRequest_sound c tag ps d)
  | talkRequest => exact hnamed (talkRequestRequest_sound c tag ps d)
  | talkStart => exact hplain (talkStartRequest_sound c tag ps d)
  | talkEnd => exact hplain (talkEndRequest_sound c tag ps d)
  | talkCancel => exact hplain (talkCancelRequest_sound c tag ps d)
  | floorClear => exact hnamed (floorClearRequest_sound c tag ps d)
  | presetStore => exact hplain (presetStoreRequest_sound c tag ps d)
  | presetRecall => exact hplain (presetRecallRequest_sound c tag ps d)
  | presetErase => exact hplain (presetEraseRequest_sound c tag ps d)
  | presetRead => exact hplain (presetReadRequest_sound c tag ps d)
  | portsStore => exact hplain (portsStoreRequest_sound c tag ps d)

end handlers

/-- A property of the part that no take breaks, whatever its request: neither the take itself and its response, nor the renewal of a
hold, nor what the owner blocks carry out, nor the start of an operation of the store. -/
structure Part.KeptByTakes (P : Part → Prop) : Prop where
  take : ∀ (c : CtlNo) (d : Part), P d → P (d.takeFrame c)
  respond : ∀ (c : CtlNo) (kind tag : Byte) (st : Status) (data : List Byte) (d : Part), P d → P (d.respond c kind tag st data)
  renewed : ∀ (c : CtlNo) (g : GroupNo) (d : Part), P d → P (d.renewed c g)
  carriesOut : ∀ {c : CtlNo} {k : ReqKind} {d t : Part}, Part.CarriesOut c k d t → (d.ctl c).attached = true ∨ k = .attach →
    d.loading = false → P d → P t
  starts : ∀ (c : CtlNo) (tag : Byte) {d e : Part} {kind : StoreKind} (time : Nat), d.storeOp = none → d.Prepares e kind → P d →
    P (e.startOp c tag kind time).part

section takes
variable {P : Part → Prop} (hP : Part.KeptByTakes P)
include hP

theorem Part.KeptByTakes.serve (k : ReqKind) (c : CtlNo) {d : Part} (hd : P d) : P (Part.serve k k.handler c d) := by
  rcases serve_cases k k.handler c d with h | ⟨f, -, ⟨st, h⟩ | ⟨hattached, hloading, h⟩⟩
  · rwa [h]
  · rw [h]
    exact hP.respond _ _ _ _ _ _ (hP.take c d hd)
  · rw [h]
    have htaken := hP.take c d hd
    obtain ⟨e, hrenewed, hsound⟩ := handler_sound c (frameTag f) (frameParams f) (d.takeFrame c) k
    have he : P e ∧ ((e.ctl c).attached = true ∨ k = .attach) ∧ e.loading = false := by
      rcases hrenewed with rfl | ⟨g, rfl⟩
      · exact ⟨htaken, by rwa [takeFrame_attached], hloading⟩
      · exact ⟨hP.renewed c g _ htaken, by rwa [renewed_ctl, takeFrame_attached], hloading⟩
    generalize k.handler c (frameTag f) (frameParams f) (d.takeFrame c) = r at hsound
    cases hsound with
    | answers a hout => exact hP.respond _ _ _ _ _ _ (hP.carriesOut hout he.2.1 he.2.2 he.1)
    | starts time hidle hprep => exact hP.starts c _ time hidle hprep he.1

theorem Part.KeptByTakes.unknownKind (c : CtlNo) {d : Part} (hd : P d) : P (d.unknownKind c) := by
  rcases unknownKind_cases c d with h | ⟨f, st, -, h⟩
  · rwa [h]
  · rw [h]
    exact hP.respond _ _ _ _ _ _ (hP.take c d hd)

end takes

end Sys2Proof.Machine
end

section
/-!
PROOFS. The recall (O52). Each pass works on one group at a time and leaves the other groups and floors as they are, so that what a
group is after the recall is read off the passes that name it; the LAYOUT notices are those of the revisions, in their order.
-/

namespace Sys2Proof.Machine

/-! Operations of the patch table, one group at a time. -/

section layout
variable (d : Part) (g : GroupNo)

theorem modGroup_elsewhere (f : GroupRec → GroupRec) : d.SameElsewhere g (d.modGroup g f) := fun k hk =>
  ⟨by rw [modGroup_group, if_neg hk], rfl⟩

theorem leaveGroup_elsewhere (p : PortNo) : d.SameElsewhere g (d.leaveGroup g p) :=
  (modGroup_elsewhere d g _).trans (Part.Acts.reportRemoval _ g p).elsewhere

theorem joinGroup_elsewhere (p : PortNo) : d.SameElsewhere g (d.joinGroup g p) :=
  (modGroup_elsewhere d g _).trans (Part.Acts.reportJoin _ g p).elsewhere

theorem removeAll_elsewhere : d.SameElsewhere g (d.removeAll g) :=
  (modGroup_elsewhere d g _).trans (Part.Acts.removeMembers _ g _).elsewhere

theorem revised_elsewhere (cause : LayoutCause) : d.SameElsewhere g (d.revised g cause) := fun k hk =>
  ⟨by rw [revised_group, if_neg hk], rfl⟩

theorem bumpRevision_elsewhere (cause : LayoutCause) : d.SameElsewhere g (d.bumpRevision g cause) := by
  rw [bumpRevision_revised]
  exact revised_elsewhere d g cause

end layout

section each
variable {α : Type} {f : α → Part → Part} {key : α → GroupNo} (hf : ∀ a d, Part.SameElsewhere (key a) d (f a d))
include hf

/-- A group that no item names stays as it is. -/
theorem each_elsewhere {k : GroupNo} {l : List α} (hk : ∀ a ∈ l, key a ≠ k) (d : Part) : d.SameAt k (Part.each f l d) := by
  induction l generalizing d with
  | nil => exact .refl k d
  | cons a l ih =>
    rw [each_cons]
    have hfirst := hf a d k (Ne.symm (hk a List.mem_cons_self))
    exact hfirst.trans (ih (fun b hb => hk b (List.mem_cons_of_mem _ hb)) _)

/-- A group that one item names is as that item found it before, and as that item left it after. -/
theorem each_at {a : α} {l : List α} (ha : a ∈ l) (hnodup : (l.map key).Nodup) (d : Part) :
    ∃ m, d.SameAt (key a) m ∧ (f a m).SameAt (key a) (Part.each f l d) := by
  induction l generalizing d with
  | nil => exact absurd ha List.not_mem_nil
  | cons b l ih =>
    obtain ⟨hb, hrest⟩ := List.nodup_cons.1 hnodup
    rw [each_cons]
    rcases List.mem_cons.1 ha with rfl | ha'
    · exact ⟨d, .refl _ d, each_elsewhere hf (fun x hx hkey => hb (List.mem_map.2 ⟨x, hx, hkey⟩)) _⟩
    · obtain ⟨m, hm, hlast⟩ := ih ha' hrest (f b d)
      refine ⟨m, Part.SameAt.trans (hf b d (key a) fun hkey => ?_) hm, hlast⟩
      exact hb (List.mem_map.2 ⟨a, ha', hkey⟩)

end each

/-! LAYOUT notices. -/

/-- From `d` to `t` each controller port receives notices; the LAYOUT notices among them are `ls`, to every attached port. -/
def Part.Tells (d t : Part) (ls : List Notice) : Prop :=
  ∀ r, ∃ ns : List Notice, t.ctl r = (d.ctl r).receives ns ∧
    ns.filter (fun n => n.kind = .layout) = if (d.ctl r).attached = true then ls else []

theorem receives_attached (ns : List Notice) (q : CtlPort) : (q.receives ns).attached = q.attached := by
  have h := (CtlPort.Notified.receives ns q).2.2.2
  rw [h]

section tells
variable {d e t : Part} {ls ms : List Notice} {g : GroupNo}

theorem Part.Tells.attached (h : d.Tells t ls) (r : CtlNo) : (t.ctl r).attached = (d.ctl r).attached := by
  obtain ⟨ns, hns, -⟩ := h r
  rw [hns, receives_attached]

theorem Part.Tells.trans (h : d.Tells e ls) (h' : e.Tells t ms) : d.Tells t (ls ++ ms) := by
  intro r
  obtain ⟨ns, hns, hls⟩ := h r
  obtain ⟨ns', hns', hms⟩ := h' r
  refine ⟨ns ++ ns', by rw [hns', hns, receives_append], ?_⟩
  rw [List.filter_append, hls, hms, h.attached]
  split <;> rfl

theorem tells_of_same (h : ∀ r, t.ctl r = d.ctl r) : d.Tells t [] := fun r => ⟨[], h r, by simp⟩

theorem Part.Acts.tells (h : Part.Acts g d t) : d.Tells t [] := by
  intro r
  obtain ⟨ns, hns, hkind⟩ := h.receives r
  refine ⟨ns, hns, ?_⟩
  rw [List.filter_eq_nil_iff.2 fun n hn => by simpa using hkind n hn]
  split <;> rfl

theorem revised_tells (d : Part) (g : GroupNo) (cause : LayoutCause) :
    d.Tells (d.revised g cause) [.layout g ((d.group g).revision + 1) cause] := by
  intro r
  refine ⟨toAll (fun r => (d.ctl r).attached) (.layout g ((d.group g).revision + 1) cause) r, told_ctl .., ?_⟩
  unfold toAll
  split <;> rfl

theorem leaveGroup_tells (d : Part) (g : GroupNo) (p : PortNo) : d.Tells (d.leaveGroup g p) [] :=
  (tells_of_same (t := d.setMembers g _) fun _ => rfl).trans (Part.Acts.reportRemoval _ g p).tells

/-- Operations that send no LAYOUT notice, one after the other. -/
theorem each_tells_none {α : Type} {f : α → Part → Part} (hf : ∀ a d, Part.Tells d (f a d) []) (l : List α) (d : Part) :
    d.Tells (Part.each f l d) [] :=
  each_rel (fun d t => d.Tells t []) f (fun _ => tells_of_same fun _ => rfl) (fun _ _ _ h h' => h.trans h') hf l d

/-- Operations on different groups, each with the LAYOUT notice of its group's revision. -/
theorem each_tells {α : Type} {f : α → Part → Part} {key : α → GroupNo} {note : α → GroupRec → Notice}
    (hf : ∀ a d, Part.SameElsewhere (key a) d (f a d)) (htells : ∀ a d, Part.Tells d (f a d) [note a (d.group (key a))])
    {l : List α} (hnodup : (l.map key).Nodup) (d : Part) :
    d.Tells (Part.each f l d) (l.map fun a => note a (d.group (key a))) := by
  induction l generalizing d with
  | nil => exact tells_of_same fun _ => rfl
  | cons a l ih =>
    obtain ⟨ha, hrest⟩ := List.nodup_cons.1 hnodup
    rw [each_cons]
    have hsame : (l.map fun b => note b ((f a d).group (key b))) = l.map fun b => note b (d.group (key b)) := by
      refine List.map_congr_left fun b hb => ?_
      rw [(hf a d (key b) fun hkey => ha (List.mem_map.2 ⟨b, hb, hkey⟩)).1]
    rw [List.map_cons, ← List.singleton_append, ← hsame]
    exact (htells a d).trans (ih hrest _)

end tells

/-! What the recall's operations make of a group record. -/

/-- The record with these members, settings and revision, and whatever dissolve timer. -/
def GroupRec.Rewritten (ms : List PortNo) (s : GroupSettings) (rev : Word) (r r' : GroupRec) : Prop :=
  r' = { r with members := ms, settings := s, revision := rev, dissolveTimer := r'.dissolveTimer }

theorem GroupRec.Rewritten.fields {ms : List PortNo} {s : GroupSettings} {rev : Word} {r r' : GroupRec}
    (h : GroupRec.Rewritten ms s rev r r') :
    r'.members = ms ∧ r'.settings = s ∧ r'.revision = rev ∧ r'.holdHolder = r.holdHolder ∧ r'.holdTimer = r.holdTimer := by
  unfold GroupRec.Rewritten at h
  refine ⟨?_, ?_, ?_, ?_, ?_⟩ <;> rw [h]

theorem rewritten_refl (r : GroupRec) : GroupRec.Rewritten r.members r.settings r.revision r r := rfl

theorem GroupRec.Rewritten.trans {ms ms' : List PortNo} {s s' : GroupSettings} {rev rev' : Word} {r r' r'' : GroupRec}
    (h : GroupRec.Rewritten ms s rev r r') (h' : GroupRec.Rewritten ms' s' rev' r' r'') : GroupRec.Rewritten ms' s' rev' r r'' := by
  unfold GroupRec.Rewritten at *
  rw [h', h]

theorem Part.Quiet.rewritten {d t : Part} (h : d.Quiet t) (g : GroupNo) :
    GroupRec.Rewritten (d.group g).members (d.group g).settings (d.group g).revision (d.group g) (t.group g) := by
  obtain ⟨-, hgroup, -⟩ := h
  exact hgroup g

theorem leaveGroup_rewritten (d : Part) (g : GroupNo) (p : PortNo) :
    GroupRec.Rewritten ((d.group g).members.filter fun m => m ≠ p) (d.group g).settings (d.group g).revision (d.group g)
      ((d.leaveGroup g p).group g) := by
  have h := leaveGroup_group d g g p
  rwa [if_pos rfl] at h

theorem leaveGroupAll_rewritten (g : GroupNo) (ps : List PortNo) (d : Part) :
    GroupRec.Rewritten ((d.group g).members.filter fun m => m ∉ ps) (d.group g).settings (d.group g).revision (d.group g)
      ((d.leaveGroupAll g ps).group g) := by
  unfold Part.leaveGroupAll
  induction ps generalizing d with
  | nil => simpa using rewritten_refl (d.group g)
  | cons p ps ih =>
    have hfirst := leaveGroup_rewritten d g p
    obtain ⟨hmembers, hsettings, hrevision, -⟩ := hfirst.fields
    have hrest := ih (d.leaveGroup g p)
    have hfilter : ((d.group g).members.filter fun m => m ≠ p).filter (fun m => m ∉ ps) =
        (d.group g).members.filter fun m => m ∉ p :: ps := by
      rw [List.filter_filter]
      exact List.filter_congr fun m _ => by simp [Bool.and_comm]
    rw [hmembers, hsettings, hrevision, hfilter] at hrest
    exact hfirst.trans hrest

theorem leaveGroupAll_elsewhere (g : GroupNo) (ps : List PortNo) (d : Part) : d.SameElsewhere g (d.leaveGroupAll g ps) :=
  each_rel (Part.SameElsewhere g) _ (fun d k _ => .refl k d) (fun _ _ _ => .trans) (fun p d => leaveGroup_elsewhere d g p) ps d

theorem leaveGroupAll_tells (g : GroupNo) (ps : List PortNo) (d : Part) : d.Tells (d.leaveGroupAll g ps) [] :=
  each_tells_none (fun p d => leaveGroup_tells d g p) ps d

theorem revised_rewritten (d : Part) (g : GroupNo) (cause : LayoutCause) :
    GroupRec.Rewritten (d.group g).members (d.group g).settings ((d.group g).revision + 1) (d.group g)
      ((d.revised g cause).group g) := by
  rw [revised_group, if_pos rfl]
  rfl

/-! The passes. -/

section passes
variable (pre : Preset)

theorem recallClear_elsewhere (g : GroupNo) (d : Part) : d.SameElsewhere g (d.recallClear g) :=
  (Part.Acts.clearFloor d g _ _).elsewhere

theorem recallLose_elsewhere (g : GroupNo) (d : Part) : d.SameElsewhere g (d.recallLose pre g) :=
  (leaveGroupAll_elsewhere g _ d).trans (bumpRevision_elsewhere _ g _)

theorem recallTrim_elsewhere (e : GroupEntry) (d : Part) : d.SameElsewhere e.group (d.recallTrim e) :=
  leaveGroupAll_elsewhere e.group _ d

/-- Pass 3 up to the revision: the joins reported to the rewritten group. -/
def Part.recallJoined (e : GroupEntry) (d : Part) : Part :=
  Part.each (Part.reportJoin e.group) (e.members.filter fun m => !(d.group e.group).members.contains m)
    (d.modGroup e.group fun r => { r with members := e.members, settings := e.settings, dissolveTimer := none })

theorem recallWrite_revised (e : GroupEntry) (d : Part) : d.recallWrite e = (d.recallJoined e).revised e.group .recall :=
  bumpRevision_revised e.group .recall _

theorem recallJoined_acts (e : GroupEntry) (d : Part) :
    Part.Acts e.group (d.modGroup e.group fun r => { r with members := e.members, settings := e.settings, dissolveTimer := none })
      (d.recallJoined e) :=
  .each _ _ (fun p d => .reportJoin d e.group p) _

theorem recallJoined_elsewhere (e : GroupEntry) (d : Part) : d.SameElsewhere e.group (d.recallJoined e) :=
  (modGroup_elsewhere d e.group _).trans (recallJoined_acts e d).elsewhere

theorem recallWrite_elsewhere (e : GroupEntry) (d : Part) : d.SameElsewhere e.group (d.recallWrite e) := by
  rw [recallWrite_revised]
  exact (recallJoined_elsewhere e d).trans (revised_elsewhere _ _ _)

theorem recallLose_rewritten (g : GroupNo) (d : Part) :
    GroupRec.Rewritten ((d.group g).members.filter fun m => decide (∀ e ∈ pre, m ∉ e.members)) (d.group g).settings
      ((d.group g).revision + 1) (d.group g) ((d.recallLose pre g).group g) := by
  have hleave := leaveGroupAll_rewritten g ((d.group g).members.filter fun m => (Preset.placed pre).contains m) d
  have hrev := revised_rewritten (d.leaveGroupAll g ((d.group g).members.filter fun m => (Preset.placed pre).contains m)) g .recall
  rw [← bumpRevision_revised] at hrev
  obtain ⟨hmembers, hsettings, hrevision, -⟩ := hleave.fields
  have hfilter : ((d.group g).members.filter fun m => m ∉ (d.group g).members.filter fun m => (Preset.placed pre).contains m) =
      (d.group g).members.filter fun m => decide (∀ e ∈ pre, m ∉ e.members) := by
    refine List.filter_congr fun m hm => ?_
    simp [hm, Preset.placed]
  rw [hmembers, hsettings, hrevision, hfilter] at hrev
  exact hleave.trans hrev

theorem recallTrim_rewritten (e : GroupEntry) (d : Part) :
    GroupRec.Rewritten ((d.group e.group).members.filter fun m => decide (m ∈ e.members)) (d.group e.group).settings
      (d.group e.group).revision (d.group e.group) ((d.recallTrim e).group e.group) := by
  have hleave := leaveGroupAll_rewritten e.group ((d.group e.group).members.filter fun m => !e.members.contains m) d
  have hmembers : ((d.group e.group).members.filter fun m =>
      m ∉ (d.group e.group).members.filter fun m => !e.members.contains m) =
        (d.group e.group).members.filter fun m => decide (m ∈ e.members) := by
    refine List.filter_congr fun m hm => ?_
    simp [hm]
  rwa [hmembers] at hleave

theorem recallJoined_rewritten (e : GroupEntry) (d : Part) :
    GroupRec.Rewritten e.members e.settings (d.group e.group).revision (d.group e.group) ((d.recallJoined e).group e.group) := by
  have hjoins := (recallJoined_acts e d).quiet.rewritten e.group
  rw [modGroup_group_self] at hjoins
  exact GroupRec.Rewritten.trans (r' := { d.group e.group with members := e.members, settings := e.settings, dissolveTimer := none })
    rfl hjoins

theorem recallWrite_rewritten (e : GroupEntry) (d : Part) :
    GroupRec.Rewritten e.members e.settings ((d.group e.group).revision + 1) (d.group e.group) ((d.recallWrite e).group e.group) := by
  have hjoins := recallJoined_rewritten e d
  have hrev := revised_rewritten (d.recallJoined e) e.group .recall
  rw [← recallWrite_revised] at hrev
  obtain ⟨hmembers, hsettings, hrevision, -⟩ := hjoins.fields
  rw [hmembers, hsettings, hrevision] at hrev
  exact hjoins.trans hrev

/-- A rewritten group's dissolve timer runs from its full time exactly if its condition holds (R50, R126). -/
theorem recallWrite_dissolveTimer (e : GroupEntry) (d : Part) :
    ((d.recallWrite e).group e.group).dissolveTimer =
      if ((d.recallWrite e).floor e.group).state = .free ∧ e.members ≠ [] ∧ (d.group e.group).holdHolder = none ∧
        e.settings.dissolve ≠ 0
      then some (480000 * e.settings.dissolve) else none := by
  have hfull : ((d.recallJoined e).group e.group).FromFull :=
    (recallJoined_acts e d).fromFull (.inl (by rw [modGroup_group_self]))
  obtain ⟨hmembers, hsettings, -, hholder, -⟩ := (recallJoined_rewritten e d).fields
  have hfloor : (d.recallWrite e).floor e.group = (d.recallJoined e).floor e.group := by
    rw [recallWrite_revised]
    rfl
  rw [hfloor, recallWrite_revised, revised_group, if_pos rfl, ← hholder]
  generalize (d.recallJoined e).group e.group = r at hfull hmembers hsettings
  unfold GroupRec.timed
  unfold GroupRec.FromFull at hfull
  simp only [hmembers, hsettings, decide_eq_true_eq] at hfull ⊢
  split
  · rcases hfull with h | h <;> rw [h] <;> rfl
  · rfl

theorem recallLose_tells (g : GroupNo) (d : Part) :
    d.Tells (d.recallLose pre g) [.layout g ((d.group g).revision + 1) .recall] := by
  have hleave := leaveGroupAll_tells g ((d.group g).members.filter fun m => (Preset.placed pre).contains m) d
  have hrev := revised_tells (d.leaveGroupAll g ((d.group g).members.filter fun m => (Preset.placed pre).contains m)) g .recall
  obtain ⟨-, -, hrevision, -⟩ :=
    (leaveGroupAll_rewritten g ((d.group g).members.filter fun m => (Preset.placed pre).contains m) d).fields
  rw [hrevision, ← bumpRevision_revised] at hrev
  exact hleave.trans hrev

theorem recallWrite_tells (e : GroupEntry) (d : Part) :
    d.Tells (d.recallWrite e) [.layout e.group ((d.group e.group).revision + 1) .recall] := by
  have hjoins : d.Tells (d.recallJoined e) [] :=
    (tells_of_same (t := d.modGroup e.group _) fun _ => rfl).trans (recallJoined_acts e d).tells
  have hrev := revised_tells (d.recallJoined e) e.group .recall
  obtain ⟨-, -, hrevision, -⟩ := (recallJoined_rewritten e d).fields
  rw [hrevision, ← recallWrite_revised] at hrev
  exact hjoins.trans hrev

end passes

end Sys2Proof.Machine
end

section
/-!
PROOFS. The recall (O52), its passes put together: what each group is after it, what it leaves alone, and its response.
-/

namespace Sys2Proof.Machine

/-! What the recall's operations leave alone. -/

/-- The radio ports are acted on as floors act on them; the consoles' classes and monitor sets, the samples and the store stay. -/
def Part.Undisturbed (d t : Part) : Prop :=
  (∀ p, (d.port p).FloorActed (t.port p)) ∧
  (∀ c, (t.console c).srcClass = (d.console c).srcClass ∧ (t.console c).monitor = (d.console c).monitor) ∧ d.SameRest t

theorem Part.Undisturbed.refl (d : Part) : d.Undisturbed d := ⟨fun _ => .refl _, fun _ => ⟨rfl, rfl⟩, .refl d⟩

theorem Part.Undisturbed.trans {d e t : Part} (h : d.Undisturbed e) (h' : e.Undisturbed t) : d.Undisturbed t := by
  obtain ⟨hport, hconsole, hrest⟩ := h
  obtain ⟨hport', hconsole', hrest'⟩ := h'
  exact ⟨fun p => (hport p).trans (hport' p),
    fun c => ⟨(hconsole' c).1.trans (hconsole c).1, (hconsole' c).2.trans (hconsole c).2⟩, hrest.trans hrest'⟩

theorem Part.Quiet.undisturbed {d t : Part} (h : d.Quiet t) : d.Undisturbed t := by
  obtain ⟨hport, -, hconsole, -, hrest⟩ := h
  refine ⟨hport, fun c => ?_, hrest⟩
  rw [hconsole c]
  exact ⟨rfl, rfl⟩

theorem modGroup_undisturbed (d : Part) (g : GroupNo) (f : GroupRec → GroupRec) : d.Undisturbed (d.modGroup g f) :=
  ⟨fun _ => .refl _, fun _ => ⟨rfl, rfl⟩, (sameRest_modGroup ..).2 (.refl d)⟩

theorem revised_undisturbed (d : Part) (g : GroupNo) (cause : LayoutCause) : d.Undisturbed (d.revised g cause) :=
  ⟨fun _ => .refl _, fun _ => ⟨rfl, rfl⟩, rfl, rfl, rfl, rfl, rfl, rfl, rfl⟩

theorem leaveGroup_undisturbed (g : GroupNo) (p : PortNo) (d : Part) : d.Undisturbed (d.leaveGroup g p) :=
  (modGroup_undisturbed d g _).trans (Part.Acts.reportRemoval _ g p).quiet.undisturbed

theorem each_undisturbed {α : Type} {f : α → Part → Part} (hf : ∀ a d, Part.Undisturbed d (f a d)) (l : List α) (d : Part) :
    d.Undisturbed (Part.each f l d) :=
  each_rel Part.Undisturbed f .refl (fun _ _ _ => .trans) hf l d

theorem recallLose_undisturbed (pre : Preset) (g : GroupNo) (d : Part) : d.Undisturbed (d.recallLose pre g) := by
  unfold Part.recallLose Part.leaveGroupAll
  rw [bumpRevision_revised]
  exact (each_undisturbed (leaveGroup_undisturbed g) _ d).trans (revised_undisturbed _ g _)

theorem recallTrim_undisturbed (e : GroupEntry) (d : Part) : d.Undisturbed (d.recallTrim e) :=
  each_undisturbed (leaveGroup_undisturbed e.group) _ d

theorem recallWrite_undisturbed (e : GroupEntry) (d : Part) : d.Undisturbed (d.recallWrite e) := by
  rw [recallWrite_revised]
  exact ((modGroup_undisturbed d e.group _).trans (recallJoined_acts e d).quiet.undisturbed).trans (revised_undisturbed _ _ _)

/-! The losing groups and the holds. -/

theorem mem_placed_iff {pre : Preset} {p : PortNo} : p ∈ Preset.placed pre ↔ ∃ e ∈ pre, p ∈ e.members := List.mem_flatMap

theorem mem_named {pre : Preset} {g : GroupNo} : g ∈ Preset.named pre ↔ Part.namedBy pre g := List.mem_map

theorem mem_losing {d : Part} {pre : Preset} {g : GroupNo} : g ∈ d.losing pre ↔ d.losesTo pre g := by
  unfold Part.losing Part.losesTo
  rw [List.mem_filter]
  simp only [List.mem_finRange, true_and, Bool.and_eq_true, Bool.not_eq_true', List.any_eq_true, List.contains_eq_mem,
    decide_eq_true_iff, decide_eq_false_iff_not, mem_named, mem_placed_iff]
  refine and_congr_right fun _ => ⟨?_, ?_⟩
  · rintro ⟨p, hp, e, he, hpe⟩
    exact ⟨e, he, p, hpe, hp⟩
  · rintro ⟨e, he, p, hpe, hp⟩
    exact ⟨p, hp, e, he, hpe⟩

theorem losing_pairwise (d : Part) (pre : Preset) : (d.losing pre).Pairwise (· < ·) :=
  (List.pairwise_lt_finRange 12).filter _

theorem losing_nodup (d : Part) (pre : Preset) : (d.losing pre).Nodup := (losing_pairwise d pre).imp fun h => ne_of_lt h

/-- A group that the recall changes (R125). -/
def Part.RecallTouches (d : Part) (pre : Preset) (g : GroupNo) : Prop := Part.namedBy pre g ∨ d.losesTo pre g

theorem recallHeld_iff {d : Part} {pre : Preset} {req : Option CtlNo} :
    d.recallHeld pre req = true ↔ ∃ g k, d.RecallTouches pre g ∧ (d.group g).holdHolder = some k ∧ req ≠ some k := by
  unfold Part.recallHeld Part.RecallTouches
  rw [List.any_eq_true]
  refine exists_congr fun g => ?_
  rw [List.mem_append, mem_named, mem_losing]
  cases (d.group g).holdHolder with
  | none => exact ⟨fun h => (nomatch h.2), fun ⟨_, _, h, _⟩ => (nomatch h)⟩
  | some k =>
    refine ⟨fun ⟨htouch, hk⟩ => ⟨k, htouch, rfl, fun h => by simp [h] at hk⟩, ?_⟩
    rintro ⟨j, htouch, hj, hreq⟩
    rw [hj]
    exact ⟨htouch, by simpa using Ne.symm hreq⟩

/-! The groups after a recall. -/

section groups
variable {pre : Preset} (d : Part)

/-- The part after the first pass, after the second on the losing groups, and after the second on the named ones. -/
def Part.recallCleared (pre : Preset) (d : Part) : Part := Part.each Part.recallClear (Preset.named pre) d
def Part.recallLost (pre : Preset) (d : Part) : Part := Part.each (Part.recallLose pre) (d.losing pre) (d.recallCleared pre)
def Part.recallTrimmed (pre : Preset) (d : Part) : Part := Part.each Part.recallTrim pre (d.recallLost pre)

theorem recallApply_trimmed : d.recallApply pre = Part.each Part.recallWrite pre (d.recallTrimmed pre) := rfl

theorem recallCleared_quiet : d.Quiet (d.recallCleared pre) :=
  .each d _ (fun g d => .clearFloor d g _ _) _

theorem recallApply_undisturbed : d.Undisturbed (d.recallApply pre) :=
  ((recallCleared_quiet d).undisturbed.trans (each_undisturbed (recallLose_undisturbed pre) _ _)).trans
    ((each_undisturbed recallTrim_undisturbed pre _).trans (each_undisturbed recallWrite_undisturbed pre _))

/-- The passes before the last leave an untouched group alone. -/
theorem recallTrimmed_untouched {g : GroupNo} (hname : ¬ Part.namedBy pre g) (hlose : ¬ d.losesTo pre g) :
    d.SameAt g (d.recallTrimmed pre) := by
  have hentry : ∀ e ∈ pre, e.group ≠ g := fun e he hg => hname ⟨e, he, hg⟩
  have hclear := each_elsewhere recallClear_elsewhere (key := id) (k := g) (l := Preset.named pre)
    (fun h hh (hg : h = g) => hname (mem_named.1 (hg ▸ hh))) d
  have hloses := each_elsewhere (recallLose_elsewhere pre) (key := id) (k := g) (l := d.losing pre)
    (fun h hh (hg : h = g) => hlose (mem_losing.1 (hg ▸ hh))) (d.recallCleared pre)
  exact (hclear.trans hloses).trans (each_elsewhere recallTrim_elsewhere hentry _)

theorem recallApply_untouched {g : GroupNo} (hname : ¬ Part.namedBy pre g) (hlose : ¬ d.losesTo pre g) :
    d.SameAt g (d.recallApply pre) :=
  (recallTrimmed_untouched d hname hlose).trans (each_elsewhere recallWrite_elsewhere (fun e he hg => hname ⟨e, he, hg⟩) _)

/-- A losing group is without the ports that the preset places, and one revision higher. -/
theorem recallApply_losing {g : GroupNo} (hlose : d.losesTo pre g) :
    GroupRec.Rewritten ((d.group g).members.filter fun p => decide (∀ e ∈ pre, p ∉ e.members)) (d.group g).settings
      ((d.group g).revision + 1) (d.group g) ((d.recallApply pre).group g) := by
  have hentry : ∀ e ∈ pre, e.group ≠ g := fun e he hg => hlose.1 ⟨e, he, hg⟩
  have hnodup : ((d.losing pre).map id).Nodup := (List.map_id _).symm ▸ losing_nodup d pre
  have hclear : d.SameAt g (d.recallCleared pre) := each_elsewhere recallClear_elsewhere (key := id)
    (fun h hh (hg : h = g) => hlose.1 (mem_named.1 (hg ▸ hh))) d
  obtain ⟨m, hm, hlast⟩ : ∃ m, (d.recallCleared pre).SameAt g m ∧ (m.recallLose pre g).SameAt g (d.recallLost pre) :=
    each_at (recallLose_elsewhere pre) (key := id) (mem_losing.2 hlose) hnodup (d.recallCleared pre)
  have hrest := (each_elsewhere recallTrim_elsewhere hentry (d.recallLost pre)).trans (each_elsewhere recallWrite_elsewhere hentry _)
  have hrewritten := recallLose_rewritten pre g m
  rwa [hm.1, hclear.1, ← hlast.1, ← hrest.1] at hrewritten

/-- A group that the preset does not name keeps the members that the preset does not place, and its settings. -/
theorem recallApply_unnamed {g : GroupNo} (hname : ¬ Part.namedBy pre g) :
    ((d.recallApply pre).group g).members = (d.group g).members.filter (fun p => decide (∀ e ∈ pre, p ∉ e.members)) ∧
      ((d.recallApply pre).group g).settings = (d.group g).settings := by
  by_cases hlose : d.losesTo pre g
  · obtain ⟨hmembers, hsettings, -⟩ := (recallApply_losing d hlose).fields
    exact ⟨hmembers, hsettings⟩
  · obtain ⟨hgroup, -⟩ := recallApply_untouched d hname hlose
    rw [hgroup]
    refine ⟨(List.filter_eq_self.2 fun p hp => ?_).symm, rfl⟩
    rw [decide_eq_true_iff]
    exact fun e he hpe => hlose ⟨hname, e, he, p, hpe, hp⟩

section named
variable (hnodup : (pre.map fun e => e.group).Nodup) {e : GroupEntry} (he : e ∈ pre)
include hnodup he

/-- A named group before the last pass: the members that its entry lists too. -/
theorem recallTrimmed_named :
    GroupRec.Rewritten ((d.group e.group).members.filter fun p => decide (p ∈ e.members)) (d.group e.group).settings
      (d.group e.group).revision (d.group e.group) ((d.recallTrimmed pre).group e.group) := by
  have hclear := (recallCleared_quiet (pre := pre) d).rewritten e.group
  obtain ⟨hmembers, hsettings, hrevision, -⟩ := hclear.fields
  have hloses : (d.recallCleared pre).SameAt e.group (d.recallLost pre) :=
    each_elsewhere (recallLose_elsewhere pre) (key := id) (fun h hh hg => (mem_losing.1 hh).1 ⟨e, he, hg.symm⟩) _
  obtain ⟨m, hm, hlast⟩ := each_at recallTrim_elsewhere he hnodup (d.recallLost pre)
  have htrim := recallTrim_rewritten e m
  rw [hm.1, hloses.1, hmembers, hsettings, hrevision, ← hlast.1] at htrim
  exact hclear.trans htrim

/-- A named group has the members and settings of its entry, is one revision higher, and its dissolve timer runs from its full time
where its condition holds. -/
theorem recallApply_named :
    GroupRec.Rewritten e.members e.settings ((d.group e.group).revision + 1) (d.group e.group)
        ((d.recallApply pre).group e.group) ∧
      ((d.recallApply pre).group e.group).dissolveTimer =
        if ((d.recallApply pre).floor e.group).state = .free ∧ e.members ≠ [] ∧ (d.group e.group).holdHolder = none ∧
          e.settings.dissolve ≠ 0
        then some (480000 * e.settings.dissolve) else none := by
  have htrim := recallTrimmed_named d hnodup he
  obtain ⟨-, -, hrevision, hholder, -⟩ := htrim.fields
  obtain ⟨m, hm, hlast⟩ := each_at recallWrite_elsewhere he hnodup (d.recallTrimmed pre)
  have hwrite := recallWrite_rewritten e m
  have htimer := recallWrite_dissolveTimer e m
  rw [hm.1, hrevision, ← hlast.1] at hwrite
  rw [hm.1, hholder, ← hlast.1, ← hlast.2] at htimer
  exact ⟨htrim.trans hwrite, htimer⟩

end named

theorem recallCleared_tells : d.Tells (d.recallCleared pre) [] :=
  each_tells_none (fun g d => (Part.Acts.clearFloor d g .layout .layout).tells) (Preset.named pre) d

theorem recallLost_tells :
    (d.recallCleared pre).Tells (d.recallLost pre)
      ((d.losing pre).map fun g => .layout g ((d.group g).revision + 1) .recall) := by
  have hloses : (d.recallCleared pre).Tells (d.recallLost pre)
      ((d.losing pre).map fun g => .layout g (((d.recallCleared pre).group g).revision + 1) .recall) :=
    each_tells (key := id) (note := fun g r => .layout g (r.revision + 1) .recall) (recallLose_elsewhere pre)
      (recallLose_tells pre) (by rw [List.map_id]; exact losing_nodup d pre) (d.recallCleared pre)
  have hrev (g : GroupNo) : ((d.recallCleared pre).group g).revision = (d.group g).revision :=
    ((recallCleared_quiet d).rewritten g).fields.2.2.1
  simpa only [hrev] using hloses

theorem recallTrim_tells (e : GroupEntry) : d.Tells (d.recallTrim e) [] := leaveGroupAll_tells e.group _ d

theorem recallTrimmed_tells : (d.recallLost pre).Tells (d.recallTrimmed pre) [] :=
  each_tells_none (fun e d => recallTrim_tells d e) pre (d.recallLost pre)

theorem recallWritten_tells (hnodup : (pre.map fun e => e.group).Nodup) :
    (d.recallTrimmed pre).Tells (d.recallApply pre)
      ((pre.map fun e => e.group).map fun g => .layout g ((d.group g).revision + 1) .recall) := by
  have hwrites : (d.recallTrimmed pre).Tells (d.recallApply pre)
      (pre.map fun e => .layout e.group (((d.recallTrimmed pre).group e.group).revision + 1) .recall) :=
    each_tells (key := fun e => e.group) (note := fun (e : GroupEntry) r => .layout e.group (r.revision + 1) .recall)
      recallWrite_elsewhere recallWrite_tells hnodup (d.recallTrimmed pre)
  have hnamed : (pre.map fun e => Notice.layout e.group (((d.recallTrimmed pre).group e.group).revision + 1) .recall) =
      (pre.map fun e => e.group).map fun g => .layout g ((d.group g).revision + 1) .recall := by
    rw [List.map_map]
    refine List.map_congr_left fun e he => ?_
    obtain ⟨-, -, hrevision, -⟩ := (recallTrimmed_named d hnodup he).fields
    rw [hrevision]
    rfl
  rwa [hnamed] at hwrites

/-- The LAYOUT notices of a recall: the losing groups' and then the named ones', each with its new revision. -/
theorem recallApply_tells (hnodup : (pre.map fun e => e.group).Nodup) :
    d.Tells (d.recallApply pre)
      ((d.losing pre ++ pre.map fun e => e.group).map fun g => .layout g ((d.group g).revision + 1) .recall) := by
  have hall := (((recallCleared_tells d).trans (recallLost_tells d)).trans (recallTrimmed_tells d)).trans
    (recallWritten_tells d hnodup)
  rwa [List.nil_append, List.append_nil, ← List.map_append] at hall

end groups

/-! The completion. -/

section completion
variable {d : Part} {op : StoreOp} {slot : SlotNo} (hop : d.storeOp = some op) (hk : op.kind = .presetRecall slot)
include hop hk

theorem presetRecallDone_of_empty (hpre : tget d.slots slot = none) :
    d.presetRecallDone = { d with storeOp := none }.answersFor op 0x41 .noSuch [] := by
  have hreq : op.kind.request = some .presetRecall := by rw [hk]; rfl
  unfold Part.presetRecallDone
  simp only [hop, hk, hpre]
  exact deferred_answersFor hreq ..

theorem presetRecallDone_of_held {pre : Preset} (hpre : tget d.slots slot = some pre)
    (hheld : d.recallHeld pre op.requester = true) :
    d.presetRecallDone = { d with storeOp := none }.answersFor op 0x41 .held [] := by
  have hreq : op.kind.request = some .presetRecall := by rw [hk]; rfl
  unfold Part.presetRecallDone
  simp only [hop, hk, hpre, hheld, if_true]
  exact deferred_answersFor hreq ..

theorem presetRecallDone_of_unheld {pre : Preset} (hpre : tget d.slots slot = some pre)
    (hheld : d.recallHeld pre op.requester = false) :
    d.presetRecallDone =
      (Part.recallApply pre { d with storeOp := none }).answersFor op 0x41 .ok
        (asBytes [slot.val, pre.length + (d.losing pre).length]) := by
  have hreq : op.kind.request = some .presetRecall := by rw [hk]; rfl
  unfold Part.presetRecallDone
  simp only [hop, hk, hpre, hheld, Bool.false_eq_true, if_false]
  exact deferred_answersFor hreq ..

end completion

/-- Settles O52: the completion is an equation by its case, and what the recall leaves is read off the passes group by group. -/
theorem recallRewritesTheLayout : Obligations.RecallRewritesTheLayout := by
  intro s op slot hop hk
  refine ⟨fun hpre => ex (f := Part.presetRecallDone) rfl (presetRecallDone_of_empty hop hk hpre), ?_⟩
  intro pre hpre touched held
  have hheld : s.part.recallHeld pre op.requester = true ↔ held := recallHeld_iff
  refine ⟨fun h => ex (f := Part.presetRecallDone) rfl (presetRecallDone_of_held hop hk hpre (hheld.2 h)), fun h hsound => ?_⟩
  obtain ⟨hnodup, -, -⟩ := hsound
  obtain ⟨hports, hconsoles, hrest⟩ := recallApply_undisturbed (pre := pre) { s.part with storeOp := none }
  obtain ⟨htaken, htransmit, hpeaks, hblock, hslots, hrecord, hstore⟩ := hrest
  refine ⟨Part.recallApply pre { s.part with storeOp := none }, s.part.losing pre, fun g => mem_losing, losing_pairwise _ _,
    ex (f := Part.presetRecallDone) rfl
      (presetRecallDone_of_unheld hop hk hpre (Bool.eq_false_iff.2 fun hh => h (hheld.1 hh))),
    recallApply_recalls pre _, ?named,
    fun g => recallApply_unnamed { s.part with storeOp := none }, ?touched, fun g hg => ?untouched, fun g => ?holds, hports, hconsoles,
    recallApply_tells { s.part with storeOp := none } hnodup, hstore, hslots, hrecord, htaken, htransmit, hpeaks, hblock⟩
  case named =>
    intro e he
    obtain ⟨hwritten, htimer⟩ := recallApply_named { s.part with storeOp := none } hnodup he
    obtain ⟨hmembers, hsettings, -⟩ := hwritten.fields
    exact ⟨hmembers, hsettings, htimer⟩
  case touched =>
    rintro g (⟨e, he, rfl⟩ | hlose)
    · obtain ⟨hwritten, -⟩ := recallApply_named { s.part with storeOp := none } hnodup he
      exact hwritten.fields.2.2.1
    · exact (recallApply_losing (pre := pre) { s.part with storeOp := none } hlose).fields.2.2.1
  case untouched =>
    rw [not_or] at hg
    exact recallApply_untouched (pre := pre) { s.part with storeOp := none } hg.1 hg.2
  case holds =>
    by_cases hname : Part.namedBy pre g
    · obtain ⟨e, he, rfl⟩ := hname
      obtain ⟨hwritten, -⟩ := recallApply_named { s.part with storeOp := none } hnodup he
      exact hwritten.fields.2.2.2
    · by_cases hlose : s.part.losesTo pre g
      · exact (recallApply_losing (pre := pre) { s.part with storeOp := none } hlose).fields.2.2.2
      · obtain ⟨hgroup, -⟩ := recallApply_untouched (pre := pre) { s.part with storeOp := none } hname hlose
        exact ⟨congrArg GroupRec.holdHolder hgroup, congrArg GroupRec.holdTimer hgroup⟩

end Sys2Proof.Machine
end

section
/-!
PROOFS. The events of the radio ports, the floors and the store, each as a change of one port record or of the store, followed by
what the floor arbiter does about it. The invariants read off this what an event keeps.
-/

namespace Sys2Proof.Machine

/-! Events of one radio port. -/

/-- What an event or request of chapters 1 and 2 makes of the record of its port, before the arbiter acts on it. -/
inductive PortRec.Event (loading : Bool) (r : PortRec) : PortRec → Prop
  | emergency (on : Bool) : Event loading r { r with emergency := on, emergencyCount := 0 }
  | loseLink (hload : loading = false) : Event loading r r.loseLink
  | returnLink (test : Bool) (hload : loading = false) : Event loading r (r.returnLink test)
  | pulse (h : r.restartPhase = .waiting) :
    Event loading r { r with restartPhase := .pulsing, restartTimer := startTimer (pulseFrames r.settings.restartPulse) }
  | restart (h : r.restartPhase = .pulsing) : Event loading r r.startRestart
  | guardEnd : Event loading r (r.change fun r => { r with guard := none })
  | carrierYes (h : r.suppressed = false) : Event loading r { r with carrier := true, runCount := 0 }
  | carrierNo : Event loading r { r with carrier := false, runCount := 0 }
  | limitOut (h : r.state = .keyed ∨ r.state = .source) : Event loading r r.limitOut
  | cooldownEnd {st : PortState} (h : r.state = .cooldown) (hst : st = .keyed ∨ st = .idle) : Event loading r (r.goTo st)
  | clear {st : PortState} (h : r.state = .cooldown ∨ r.state = .latched)
      (hst : if r.linkUp = true then st = .keyed ∨ st = .idle else st = .offline) : Event loading r (r.goTo st)
  | applySettings {s : PortSettings} (h : s.legal = true) : Event loading r (r.applySettings s)
  | setOwner (c : CtlNo) : Event loading r { r with settings := { r.settings with owner := c } }

/-- What is told of an event of port `p`, and then what the arbiter does about it. -/
inductive Part.Arbitrates (p : PortNo) : Part → Part → Prop
  | nothing (d : Part) : Arbitrates p d d
  | told {d t : Part} (rc : CtlNo → Bool) (n : Notice) (hn : n.kind ≠ .layout) (h : Arbitrates p (d.notify rc n) t) : Arbitrates p d t
  | sourceLost (d : Part) : Arbitrates p d (d.sourceLost p)
  | memberUnavailable (d : Part) : Arbitrates p d (d.memberUnavailable p)
  | carrierDrop (d : Part) : Arbitrates p d (d.carrierDrop p)
  | emergencyRaised (d : Part) : Arbitrates p d (d.emergencyRaised p)
  | claimIfMember (d : Part) : Arbitrates p d (d.claimIfMember p)

theorem Part.Arbitrates.portNotice {p q : PortNo} {cause : PortCause} {d t : Part} (h : Part.Arbitrates p (d.portNotice q cause) t) :
    Part.Arbitrates p d t := .told (d.portRecipients q) (.port q (d.port q).state cause) nofun h

theorem Part.Arbitrates.carrierNotice {p q : PortNo} {on : Bool} {d t : Part} (h : Part.Arbitrates p (d.carrierNotice q on) t) :
    Part.Arbitrates p d t := by
  unfold Part.carrierNotice at h
  dsimp only at h
  split at h
  · exact .told _ (.carrier q on (d.port q).rawLevel) nofun h
  · exact h

/-- What the arbiter does about a port is done on the floor of one group. -/
theorem Part.Arbitrates.acts {p : PortNo} {d t : Part} (h : Part.Arbitrates p d t) : ∃ g, Part.Acts g d t := by
  induction h with
  | nothing d => exact ⟨0, .refl d⟩
  | told rc n hn _ ih =>
    obtain ⟨g, hg⟩ := ih
    exact ⟨g, (Part.Acts.notify _ rc n hn).trans hg⟩
  | sourceLost d => exact acts_sourceLost d p
  | memberUnavailable d => exact acts_memberUnavailable d p
  | carrierDrop d => exact acts_carrierDrop d p
  | emergencyRaised d => exact acts_emergencyRaised d p
  | claimIfMember d => exact acts_claimIfMember d p

/-- From `d` to `t` by an event of port `p` and what the arbiter does about it, or by nothing. -/
def Part.RadioActs (p : PortNo) (d t : Part) : Prop :=
  t = d ∨ ∃ f : PortRec → PortRec, (d.port p).Event d.loading (f (d.port p)) ∧ Part.Arbitrates p (d.modPort p f) t

theorem Part.RadioActs.acts {p : PortNo} {d t : Part} (h : d.RadioActs p t) :
    t = d ∨ ∃ f : PortRec → PortRec, (d.port p).Event d.loading (f (d.port p)) ∧ ∃ g, Part.Acts g (d.modPort p f) t :=
  h.imp_right fun ⟨f, hf, ht⟩ => ⟨f, hf, ht.acts⟩

section radio
variable (d : Part) (p : PortNo)

theorem serviceState_eq : d.serviceState p = .keyed ∨ d.serviceState p = .idle := by
  unfold Part.serviceState
  split
  · exact .inl rfl
  · exact .inr rfl

theorem emergencyAsserted_acts : d.RadioActs p (d.emergencyAsserted p) := by
  unfold Part.emergencyAsserted
  split
  · exact .inr ⟨_, .emergency true, .emergencyRaised _⟩
  · exact .inl rfl

theorem emergencyReleased_acts : d.RadioActs p (d.emergencyReleased p) := by
  unfold Part.emergencyReleased
  split
  · exact .inr ⟨_, .emergency false, .nothing _⟩
  · exact .inl rfl

theorem reportLoss_arbitrates (was : PortState) : Part.Arbitrates p d (d.reportLoss was p) := by
  unfold Part.reportLoss
  split
  · exact .sourceLost d
  · exact .memberUnavailable d
  · exact .memberUnavailable d
  all_goals exact .nothing d

theorem linkLoss_acts : d.RadioActs p (d.linkLoss p) := by
  unfold Part.linkLoss
  split
  · next h =>
    simp only [Bool.and_eq_true, Bool.not_eq_true'] at h
    exact .inr ⟨_, .loseLink h.2, .portNotice (reportLoss_arbitrates _ p _)⟩
  · exact .inl rfl

theorem linkReturn_acts : d.RadioActs p (d.linkReturn p) := by
  unfold Part.linkReturn
  split
  · next h =>
    simp only [Bool.and_eq_true, Bool.not_eq_true'] at h
    exact .inr ⟨_, .returnLink _ h.2, .portNotice (.nothing _)⟩
  · exact .inl rfl

theorem restartTimerExpiry_acts : d.RadioActs p (d.restartTimerExpiry p) := by
  unfold Part.restartTimerExpiry
  split
  · next h => exact .inr ⟨_, .pulse h, .portNotice (.nothing _)⟩
  · exact .inl rfl

theorem restartPulseEnd_acts : d.RadioActs p (d.restartPulseEnd p) := by
  unfold Part.restartPulseEnd
  split
  · next h => exact .inr ⟨_, .restart h, .nothing _⟩
  · exact .inl rfl

theorem guardEnd_acts : d.RadioActs p (d.guardEnd p) := by
  unfold Part.guardEnd
  split
  · exact .inr ⟨_, .guardEnd, .nothing _⟩
  · exact .inl rfl

theorem carrierYes_acts : d.RadioActs p (d.carrierYes p) := by
  unfold Part.carrierYes
  split
  · next h =>
    simp only [Bool.and_eq_true, Bool.not_eq_true'] at h
    exact .inr ⟨_, .carrierYes h.1.1, .carrierNotice (.claimIfMember _)⟩
  · exact .inl rfl

theorem carrierNo_acts : d.RadioActs p (d.carrierNo p) := by
  unfold Part.carrierNo
  split
  · exact .inr ⟨_, .carrierNo, .carrierNotice (.carrierDrop _)⟩
  · exact .inl rfl

theorem transmitLimitExpiry_acts : d.RadioActs p (d.transmitLimitExpiry p) := by
  unfold Part.transmitLimitExpiry
  split
  · next h =>
    rw [Bool.and_eq_true, decide_eq_true_iff] at h
    exact .inr ⟨_, .limitOut (.inl h.2), .portNotice (.memberUnavailable _)⟩
  · exact .inl rfl

theorem carrierLimitExpiry_acts : d.RadioActs p (d.carrierLimitExpiry p) := by
  unfold Part.carrierLimitExpiry
  split
  · next h =>
    rw [Bool.and_eq_true, decide_eq_true_iff] at h
    exact .inr ⟨_, .limitOut (.inr h.2), .portNotice (.sourceLost _)⟩
  · exact .inl rfl

theorem cooldownExpiry_acts : d.RadioActs p (d.cooldownExpiry p) := by
  unfold Part.cooldownExpiry
  split
  · next h =>
    rw [Bool.and_eq_true, decide_eq_true_iff] at h
    exact .inr ⟨_, .cooldownEnd h.2 (serviceState_eq d p), .portNotice (.nothing _)⟩
  · exact .inl rfl

theorem portSet_acts {s : PortSettings} (hs : s.legal = true) : d.RadioActs p (d.portSet p s) := by
  refine .inr ⟨_, .applySettings hs, ?_⟩
  unfold Part.portSet
  dsimp only
  split
  · exact .carrierNotice (.carrierDrop _)
  · exact .nothing _

theorem portClear_acts (h : (d.port p).state = .cooldown ∨ (d.port p).state = .latched) : d.RadioActs p (d.portClear p) := by
  refine .inr ⟨_, .clear (st := d.clearState p) h ?_, .portNotice (.nothing _)⟩
  unfold Part.clearState
  split
  · exact serviceState_eq d p
  · rfl

theorem setOwner_acts (c : CtlNo) : d.RadioActs p (d.setOwner p c) := .inr ⟨_, .setOwner c, .nothing _⟩

end radio

/-- What an event of one port and the arbiter's steps keep, an event with what follows it keeps. -/
theorem Part.RadioActs.keeps {P : Part → Prop} {p : PortNo} {d t : Part} (h : d.RadioActs p t) (hd : P d)
    (hevent : ∀ f : PortRec → PortRec, (d.port p).Event d.loading (f (d.port p)) → P d → P (d.modPort p f))
    (hstep : ∀ g d t, Part.ActStep g d t → P d → P t) : P t := by
  rcases h.acts with rfl | ⟨f, hf, g, hg⟩
  · exact hd
  · exact hg.keeps (hstep g) (hevent f hf hd)

/-- The events that a port's counts have made due, one after the other. -/
theorem portCatchUp_keeps {P : Part → Prop} {p : PortNo} (hradio : ∀ d t, Part.RadioActs p d t → P d → P t) {d : Part} (hd : P d) :
    P (d.portCatchUp p) :=
  hradio _ _ (carrierNo_acts _ p) <| hradio _ _ (carrierYes_acts _ p) <| hradio _ _ (linkReturn_acts _ p) <|
    hradio _ _ (linkLoss_acts _ p) <| hradio _ _ (emergencyReleased_acts _ p) <| hradio _ _ (emergencyAsserted_acts d p) hd

/-! Events of one controller port. -/

section link
variable (c : CtlNo) (d : Part)

/-- From `d` to `t` controller port `c` changes, but stays attached or detached. -/
def Part.LinkActs (c : CtlNo) (d t : Part) : Prop := ∃ f : CtlPort → CtlPort, (∀ q, (f q).attached = q.attached) ∧ t = d.modCtl c f

theorem linkActs_refl : d.LinkActs c d := ⟨id, fun _ => rfl, (modCtl_self rfl).symm⟩

theorem direct_attached (code : Byte) (q : CtlPort) : (q.direct code).attached = q.attached := by
  unfold CtlPort.direct
  dsimp only
  split
  · rfl
  · split <;> rfl

theorem ignoreSelect_attached (q : CtlPort) : q.ignoreSelect.attached = q.attached := by
  unfold CtlPort.ignoreSelect
  split <;> rfl

theorem receiveByte_attached (q : CtlPort) (b : Byte) : (q.receiveByte b).attached = q.attached := by
  unfold CtlPort.receiveByte CtlPort.acceptFrame
  split
  · dsimp only
    split
    · rfl
    · split
      · split <;> rfl
      · rfl
  · rfl

theorem receiveBytes_attached (bytes : List Byte) (q : CtlPort) : (bytes.foldl CtlPort.receiveByte q).attached = q.attached := by
  induction bytes generalizing q with
  | nil => rfl
  | cons b bytes ih => exact (ih _).trans (receiveByte_attached q b)

theorem directionByte_link (part : DirectionPart) : d.LinkActs c (Part.directionByte c part d) := by
  unfold Part.directionByte
  split
  · exact ⟨_, ignoreSelect_attached, rfl⟩
  · split
    · exact ⟨fun q => { q with cycle := .direction, offered := [d.statusByte c] }, fun _ => rfl, rfl⟩
    · exact ⟨_, fun q => direct_attached _ { q with cycle := .direction, offered := [d.statusByte c] }, modCtl_modCtl d c _ _⟩
    · exact ⟨_, direct_attached _, rfl⟩
    all_goals exact linkActs_refl c d

theorem frameCompletion_link (bytes : List Byte) : d.LinkActs c (Part.frameCompletion c bytes d) := by
  unfold Part.frameCompletion
  split
  · exact linkActs_refl c d
  · exact ⟨_, receiveBytes_attached bytes, rfl⟩

theorem removal_link : d.LinkActs c (d.removal c) := by
  unfold Part.removal
  split
  · refine ⟨_, fun q => ?_, rfl⟩
    unfold CtlPort.removeHead
    dsimp only
    split <;> rfl
  · exact linkActs_refl c d

end link

/-! Events of one floor. -/

section floors
variable (d : Part) (g : GroupNo)

theorem hangExpiry_acts : d.Acts g (d.hangExpiry g) := by
  unfold Part.hangExpiry
  split
  · exact .endNoHang d g _
  · exact .refl d

theorem windowExpiry_acts : d.Acts g (d.windowExpiry g) := by
  unfold Part.windowExpiry
  split
  · exact .lapseGrant d g _
  · exact .refl d

theorem preemptExpiry_acts : d.Acts g (d.preemptExpiry g) := by
  unfold Part.preemptExpiry
  split
  · exact .cut d g none
  · exact .refl d

theorem talkStart_acts : d.Acts g (d.talkStart g) := (Part.Acts.modFloor d g _).trans (.floorNotice _ g _)

theorem talkRequest_acts (c : CtlNo) (em : Bool) : d.Acts g (d.talkRequest c g em).part := by
  unfold Part.talkRequest
  dsimp only
  split
  · exact .grantFromFree d g _ _
  · split
    · exact (Part.Acts.modFloor d g _).trans (.floorNotice _ g _)
    · exact .busyClaim d g _ _

end floors

/-! Operations of the store. -/

/-- From `d` to `e` the pending operation `op` does what it does when it completes, but for its response (R120 to R126). -/
inductive Part.Completes (d : Part) (op : StoreOp) : Part → Prop
  | presetStore {slot : SlotNo} {pre : Preset} (h : op.kind = .presetStore slot pre) :
    Completes d op { d.setSlot slot (some pre) with storeOp := none }
  | portsStore {record : Vector PortSettings 24} (h : op.kind = .portsStore record) :
    Completes d op { d with portsRecord := some record, storeOp := none }
  | nothing (h : op.kind ≠ .startUpLoad) : Completes d op { d with storeOp := none }
  | recalled {slot : SlotNo} {pre : Preset} (h : op.kind = .presetRecall slot) (hpre : tget d.slots slot = some pre)
      (hheld : d.recallHeld pre op.requester = false) : Completes d op (Part.recallApply pre { d with storeOp := none })

/-- From `d` to `t` a completion event occurs: with no such operation pending it has no effect, else the operation completes and its
response goes out. -/
def Part.StoreCompletes (d t : Part) : Prop :=
  t = d ∨ ∃ op e, d.storeOp = some op ∧ Part.Completes d op e ∧
    ∃ (kind : Byte) (st : Status) (data : List Byte), t = e.answersFor op kind st data

section store
variable (d : Part)

theorem presetStoreDone_completes : d.StoreCompletes d.presetStoreDone := by
  cases hop : d.storeOp with
  | none => exact .inl (by unfold Part.presetStoreDone; simp only [hop])
  | some op =>
    cases hk : op.kind with
    | presetStore slot pre => exact .inr ⟨op, _, hop, .presetStore hk, _, _, _, presetStoreDone_of_kind hop hk⟩
    | _ => exact .inl (by unfold Part.presetStoreDone; simp only [hop, hk])

theorem portsStoreDone_completes : d.StoreCompletes d.portsStoreDone := by
  cases hop : d.storeOp with
  | none => exact .inl (by unfold Part.portsStoreDone; simp only [hop])
  | some op =>
    cases hk : op.kind with
    | portsStore record => exact .inr ⟨op, _, hop, .portsStore hk, _, _, _, portsStoreDone_of_kind hop hk⟩
    | _ => exact .inl (by unfold Part.portsStoreDone; simp only [hop, hk])

theorem presetEraseDone_completes : d.StoreCompletes d.presetEraseDone := by
  cases hop : d.storeOp with
  | none => exact .inl (by unfold Part.presetEraseDone; simp only [hop])
  | some op =>
    cases hk : op.kind with
    | presetErase slot => exact .inr ⟨op, _, hop, .nothing (by rw [hk]; nofun), _, _, _, presetEraseDone_of_kind hop hk⟩
    | _ => exact .inl (by unfold Part.presetEraseDone; simp only [hop, hk])

theorem presetReadDone_completes : d.StoreCompletes d.presetReadDone := by
  cases hop : d.storeOp with
  | none => exact .inl (by unfold Part.presetReadDone; simp only [hop])
  | some op =>
    cases hk : op.kind with
    | presetRead slot =>
      cases hpre : tget d.slots slot with
      | none => exact .inr ⟨op, _, hop, .nothing (by rw [hk]; nofun), _, _, _, presetReadDone_of_empty hop hk hpre⟩
      | some pre => exact .inr ⟨op, _, hop, .nothing (by rw [hk]; nofun), _, _, _, presetReadDone_of_valid hop hk hpre⟩
    | _ => exact .inl (by unfold Part.presetReadDone; simp only [hop, hk])

theorem presetRecallDone_completes : d.StoreCompletes d.presetRecallDone := by
  cases hop : d.storeOp with
  | none => exact .inl (by unfold Part.presetRecallDone; simp only [hop])
  | some op =>
    cases hk : op.kind with
    | presetRecall slot =>
      cases hpre : tget d.slots slot with
      | none => exact .inr ⟨op, _, hop, .nothing (by rw [hk]; nofun), _, _, _, presetRecallDone_of_empty hop hk hpre⟩
      | some pre =>
        cases hheld : d.recallHeld pre op.requester with
        | true => exact .inr ⟨op, _, hop, .nothing (by rw [hk]; nofun), _, _, _, presetRecallDone_of_held hop hk hpre hheld⟩
        | false => exact .inr ⟨op, _, hop, .recalled hk hpre hheld, _, _, _, presetRecallDone_of_unheld hop hk hpre hheld⟩
    | _ => exact .inl (by unfold Part.presetRecallDone; simp only [hop, hk])

end store

/-- A response is a change of its requester's controller port, if of anything. -/
theorem answersFor_cases (d : Part) (op : StoreOp) (kind : Byte) (st : Status) (data : List Byte) :
    d.answersFor op kind st data = d ∨ ∃ c f, d.answersFor op kind st data = d.modCtl c f := by
  unfold Part.answersFor
  cases op.requester with
  | none => exact .inl rfl
  | some c =>
    dsimp only
    split
    · exact .inr ⟨c, _, rfl⟩
    · exact .inl rfl

end Sys2Proof.Machine
end

section
/-!
PROOFS. The layout invariant (O56). What leaves member lists, settings, the store's contents and its operation's kind as they are keeps
it; the layout requests, the recall and the start-up load are left, each by what it makes of the member lists.
-/

namespace Sys2Proof.Machine

theorem loading_iff (d : Part) : d.loading = true ↔ d.storeOp.map StoreOp.kind = some .startUpLoad := by
  unfold Part.loading Part.storeState
  cases d.storeOp with
  | none => simp
  | some op => cases hk : op.kind <;> simp [hk]

theorem loading_congr {d t : Part} (h : t.storeOp.map StoreOp.kind = d.storeOp.map StoreOp.kind) : t.loading = d.loading :=
  Bool.eq_iff_iff.2 (by rw [loading_iff, loading_iff, h])

/-- Member lists and settings, the store's contents and its operation's kind stay, and a group at its reset value stays there. -/
structure Part.LayoutSame (d t : Part) : Prop where
  members : ∀ g, (t.group g).members = (d.group g).members
  settings : ∀ g, (t.group g).settings = (d.group g).settings
  slots : t.slots = d.slots
  kind : t.storeOp.map StoreOp.kind = d.storeOp.map StoreOp.kind
  reset : ∀ g, d.group g = GroupRec.reset → t.group g = GroupRec.reset

/-- The part of the layout invariant that is about the groups. -/
def Part.GroupsSound (d : Part) : Prop :=
  (∀ g, (d.group g).members.Nodup ∧ (d.group g).settings.legal = true) ∧
    ∀ g h p, p ∈ (d.group g).members → p ∈ (d.group h).members → g = h

section same
variable {d e t : Part}

theorem Part.LayoutSame.refl (d : Part) : d.LayoutSame d := ⟨fun _ => rfl, fun _ => rfl, rfl, rfl, fun _ h => h⟩

theorem Part.LayoutSame.trans (h : d.LayoutSame e) (h' : e.LayoutSame t) : d.LayoutSame t :=
  ⟨fun g => (h'.members g).trans (h.members g), fun g => (h'.settings g).trans (h.settings g), h'.slots.trans h.slots,
    h'.kind.trans h.kind, fun g hg => h'.reset g (h.reset g hg)⟩

/-- Whatever else changes: where no group, no slot and not the operation does, the layout is the same. -/
theorem layoutSame_of_eq (hgroups : t.groups = d.groups) (hslots : t.slots = d.slots) (hstore : t.storeOp = d.storeOp) :
    d.LayoutSame t := by
  have hgroup (g : GroupNo) : t.group g = d.group g := by
    unfold Part.group
    rw [hgroups]
  refine ⟨fun g => ?_, fun g => ?_, hslots, by rw [hstore], fun g hg => ?_⟩
  · rw [hgroup]
  · rw [hgroup]
  · rw [hgroup, hg]

theorem Part.Quiet.layoutSame_of_reset (h : d.Quiet t) (hreset : ∀ g, d.group g = GroupRec.reset → t.group g = GroupRec.reset) :
    d.LayoutSame t := by
  obtain ⟨-, hgroup, -, -, -, -, -, -, hslots, -, hstore⟩ := h
  refine ⟨fun g => ?_, fun g => ?_, hslots, by rw [hstore], hreset⟩
  · rw [hgroup g]
  · rw [hgroup g]

theorem Part.Acts.layoutSame {g : GroupNo} (h : Part.Acts g d t) : d.LayoutSame t := by
  refine h.quiet.layoutSame_of_reset fun k hk => ?_
  rw [h.group_of_empty (by rw [hk]; rfl) (by rw [hk]; rfl), hk]

theorem layoutSame_modCtl (d : Part) (c : CtlNo) (f : CtlPort → CtlPort) : d.LayoutSame (d.modCtl c f) := layoutSame_of_eq rfl rfl rfl

theorem layoutSame_modPort (d : Part) (p : PortNo) (f : PortRec → PortRec) : d.LayoutSame (d.modPort p f) := layoutSame_of_eq rfl rfl rfl

theorem layoutSame_notify (d : Part) (rc : CtlNo → Bool) (n : Notice) : d.LayoutSame (d.notify rc n) := layoutSame_of_eq rfl rfl rfl

/-- A change of the hold alone. -/
theorem layoutSame_modGroup {g : GroupNo} {f : GroupRec → GroupRec} (hmembers : (f (d.group g)).members = (d.group g).members)
    (hsettings : (f (d.group g)).settings = (d.group g).settings) (hreset : f GroupRec.reset = GroupRec.reset) :
    d.LayoutSame (d.modGroup g f) := by
  refine ⟨fun h => ?_, fun h => ?_, rfl, rfl, fun h hh => ?_⟩ <;> rw [modGroup_group] <;> split
  · next heq => rw [hmembers, heq]
  · rfl
  · next heq => rw [hsettings, heq]
  · rfl
  · next heq => rw [← heq, hh, hreset]
  · exact hh

theorem Part.LayoutSound.groupsSound (h : d.LayoutSound) : d.GroupsSound := ⟨h.1, h.2.1⟩

/-- The layout is sound where the groups are, with the store as it was or idle, and while nothing loads. -/
theorem layoutSound_of_groups (h : d.LayoutSound) (hgroups : t.GroupsSound) (hslots : t.slots = d.slots)
    (hstore : t.storeOp = none ∨ t.storeOp.map StoreOp.kind = d.storeOp.map StoreOp.kind) (hloading : t.loading = false) :
    t.LayoutSound := by
  obtain ⟨-, -, hpresets, hpending, herase, -⟩ := h
  have hkind {op : StoreOp} (hop : t.storeOp = some op) : ∃ op', d.storeOp = some op' ∧ op'.kind = op.kind := by
    rcases hstore with hnone | hsame
    · rw [hnone] at hop
      exact nomatch hop
    · rw [hop] at hsame
      cases hd : d.storeOp with
      | none => simp [hd] at hsame
      | some op' => exact ⟨op', rfl, by simpa [hd, eq_comm] using hsame⟩
  refine ⟨hgroups.1, hgroups.2, by rwa [hslots], fun op slot pre hop hk => ?_, fun op slot hop hk => ?_,
    fun hl => absurd hl (by simp [hloading])⟩
  · obtain ⟨op', hop', hk'⟩ := hkind hop
    rw [hslots]
    exact hpending op' slot pre hop' (hk'.trans hk)
  · obtain ⟨op', hop', hk'⟩ := hkind hop
    rw [hslots]
    exact herase op' slot hop' (hk'.trans hk)

theorem Part.GroupsSound.of_same (h : d.GroupsSound) (hmembers : ∀ g, (t.group g).members = (d.group g).members)
    (hsettings : ∀ g, (t.group g).settings = (d.group g).settings) : t.GroupsSound := by
  refine ⟨fun g => ?_, fun g k p hg hk => ?_⟩
  · rw [hmembers, hsettings]
    exact h.1 g
  · rw [hmembers] at hg hk
    exact h.2 g k p hg hk

theorem Part.LayoutSound.of_same (h : d.LayoutSound) (hsame : d.LayoutSame t) : t.LayoutSound := by
  have hgroups := h.groupsSound.of_same hsame.members hsame.settings
  cases hl : t.loading with
  | false => exact layoutSound_of_groups h hgroups hsame.slots (.inr hsame.kind) hl
  | true =>
    obtain ⟨-, -, hpresets, -, -, hreset⟩ := h
    have hkind := (loading_iff t).1 hl
    have hload : d.loading = true := (loading_iff d).2 (hsame.kind ▸ hkind)
    have hnot {op : StoreOp} (hop : t.storeOp = some op) : op.kind = .startUpLoad := by
      rw [hop] at hkind
      simpa using hkind
    refine ⟨hgroups.1, hgroups.2, by rwa [hsame.slots], fun op slot pre hop hk => ?_, fun op slot hop hk => ?_,
      fun _ g => hsame.reset g (hreset hload g)⟩
    · rw [hnot hop] at hk
      exact nomatch hk
    · rw [hnot hop] at hk
      exact nomatch hk

end same

/-! The layout requests. -/

section requests
variable {d : Part}

theorem leaveGroup_members (d : Part) (g h : GroupNo) (p : PortNo) :
    ((d.leaveGroup g p).group h).members = if h = g then (d.group h).members.filter (fun m => m ≠ p) else (d.group h).members := by
  rw [leaveGroup_group]

theorem leaveGroup_settings (d : Part) (g h : GroupNo) (p : PortNo) :
    ((d.leaveGroup g p).group h).settings = (d.group h).settings := by
  rw [leaveGroup_group]

theorem joinGroup_members (d : Part) (g h : GroupNo) (p : PortNo) :
    ((d.joinGroup g p).group h).members = if h = g then (d.group h).members ++ [p] else (d.group h).members := by
  rw [joinGroup_group]

theorem joinGroup_settings (d : Part) (g h : GroupNo) (p : PortNo) :
    ((d.joinGroup g p).group h).settings = (d.group h).settings := by
  rw [joinGroup_group]

theorem bumpRevision_members (d : Part) (g h : GroupNo) (cause : LayoutCause) :
    ((d.bumpRevision g cause).group h).members = (d.group h).members := by
  rw [bumpRevision_revised, revised_group]
  split
  · next hh => rw [hh]; rfl
  · rfl

theorem bumpRevision_settings (d : Part) (g h : GroupNo) (cause : LayoutCause) :
    ((d.bumpRevision g cause).group h).settings = (d.group h).settings := by
  rw [bumpRevision_revised, revised_group]
  split
  · next hh => rw [hh]; rfl
  · rfl

theorem mem_of_otherGroup {g o : GroupNo} {p : PortNo} (h : d.otherGroup g p = some o) : p ∈ (d.group o).members ∧ o ≠ g := by
  unfold Part.otherGroup at h
  split at h
  · exact nomatch h
  · next old hold =>
    split at h
    · exact nomatch h
    · next hne =>
      injection h with h
      exact h ▸ ⟨mem_of_groupOf hold, hne⟩

/-- A port that is in no other group: it is not in `g`, so it is in none. -/
theorem not_mem_of_otherGroup_none {g : GroupNo} {p : PortNo} (hp : p ∉ (d.group g).members) (h : d.otherGroup g p = none)
    (k : GroupNo) : p ∉ (d.group k).members := by
  unfold Part.otherGroup at h
  split at h
  · next hnone => exact (groupOf_eq_none_iff d p).1 hnone k
  · next old hold =>
    split at h
    · next heq => exact absurd (heq ▸ mem_of_groupOf hold) hp
    · exact nomatch h

/-- After the first part of a move the port is in no group, and everything else is where it was. -/
theorem moveOut_members (hd : d.GroupsSound) {g : GroupNo} {p : PortNo} (hp : p ∉ (d.group g).members) (h : GroupNo) :
    ((d.moveOut p (d.otherGroup g p)).group h).members = (d.group h).members.filter fun m => m ≠ p := by
  have hfilter {k : GroupNo} (hk : p ∉ (d.group k).members) : (d.group k).members.filter (fun m => m ≠ p) = (d.group k).members :=
    List.filter_eq_self.2 fun m hm => by
      rw [decide_eq_true_iff]
      exact fun heq => hk (heq ▸ hm)
  unfold Part.moveOut
  cases ho : d.otherGroup g p with
  | none => exact (hfilter (not_mem_of_otherGroup_none hp ho h)).symm
  | some o =>
    show (((d.leaveGroup o p).bumpRevision o .moved).group h).members = _
    rw [bumpRevision_members, leaveGroup_members]
    split
    · rfl
    · next hne => exact (hfilter fun hmem => hne (hd.2 h o p hmem (mem_of_otherGroup ho).1)).symm

theorem moveOut_settings (d : Part) (p : PortNo) (o : Option GroupNo) (h : GroupNo) :
    ((d.moveOut p o).group h).settings = (d.group h).settings := by
  unfold Part.moveOut
  cases o with
  | none => rfl
  | some o =>
    show (((d.leaveGroup o p).bumpRevision o .moved).group h).settings = _
    rw [bumpRevision_settings, leaveGroup_settings]

theorem groupAdd_members (hd : d.GroupsSound) {g : GroupNo} {p : PortNo} (hp : p ∉ (d.group g).members) (h : GroupNo) :
    ((d.groupAdd g p).group h).members =
      if h = g then (d.group h).members.filter (fun m => m ≠ p) ++ [p] else (d.group h).members.filter fun m => m ≠ p := by
  unfold Part.groupAdd
  rw [bumpRevision_members, joinGroup_members, moveOut_members hd hp]

theorem groupAdd_groupsSound (hd : d.GroupsSound) {g : GroupNo} {p : PortNo} (hp : p ∉ (d.group g).members) :
    (d.groupAdd g p).GroupsSound := by
  have hmem (h : GroupNo) (q : PortNo) :
      q ∈ ((d.groupAdd g p).group h).members ↔ if q = p then h = g else q ∈ (d.group h).members := by
    rw [groupAdd_members hd hp]
    by_cases hq : q = p <;> by_cases hh : h = g <;> simp [hq, hh]
  refine ⟨fun h => ⟨?nodup, ?legal⟩, fun h k q hh hk => ?once⟩
  case nodup =>
    rw [groupAdd_members hd hp]
    have hfilter : ((d.group h).members.filter fun m => m ≠ p).Nodup := (hd.1 h).1.filter _
    split
    · exact List.Nodup.append hfilter (List.nodup_singleton p) (by simp [List.disjoint_singleton])
    · exact hfilter
  case legal =>
    unfold Part.groupAdd
    rw [bumpRevision_settings, joinGroup_settings, moveOut_settings]
    exact (hd.1 h).2
  case once =>
    rw [hmem] at hh hk
    split at hh
    · next hq => rw [if_pos hq] at hk; rw [hh, hk]
    · next hq => rw [if_neg hq] at hk; exact hd.2 h k q hh hk

/-- Groups whose member lists become shorter, or empty, and whose settings stay legal, stay sound. -/
theorem Part.GroupsSound.of_sublist {t : Part} (hd : d.GroupsSound) (hmembers : ∀ g, (t.group g).members.Sublist (d.group g).members)
    (hlegal : ∀ g, (t.group g).settings.legal = true) : t.GroupsSound :=
  ⟨fun g => ⟨(hd.1 g).1.sublist (hmembers g), hlegal g⟩,
    fun g h p hg hh => hd.2 g h p ((hmembers g).subset hg) ((hmembers h).subset hh)⟩

theorem groupRemove_groupsSound (hd : d.GroupsSound) (g : GroupNo) (p : PortNo) : (d.groupRemove g p).GroupsSound := by
  unfold Part.groupRemove
  refine hd.of_sublist (fun h => ?_) fun h => ?_
  · rw [bumpRevision_members, leaveGroup_members]
    split
    · exact List.filter_sublist
    · exact List.Sublist.refl _
  · rw [bumpRevision_settings, leaveGroup_settings]
    exact (hd.1 h).2

theorem groupSet_groupsSound (hd : d.GroupsSound) (g : GroupNo) {s : GroupSettings} (hs : s.legal = true) :
    (d.groupSet g s).GroupsSound := by
  unfold Part.groupSet
  refine hd.of_sublist (fun h => ?_) fun h => ?_
  · rw [bumpRevision_members, modGroup_group]
    split
    · next hh => rw [hh]
    · exact List.Sublist.refl _
  · rw [bumpRevision_settings, modGroup_group]
    split
    · exact hs
    · exact (hd.1 h).2

theorem emptied_groupsSound (hd : d.GroupsSound) (g : GroupNo) (cause : LayoutCause) :
    ((d.removeAll g).bumpRevision g cause).GroupsSound := by
  refine hd.of_sublist (fun h => ?_) fun h => ?_
  · rw [bumpRevision_members, removeAll_group]
    dsimp only
    split
    · exact List.nil_sublist _
    · exact List.Sublist.refl _
  · rw [bumpRevision_settings, removeAll_group]
    exact (hd.1 h).2

theorem groupDisband_groupsSound (hd : d.GroupsSound) (g : GroupNo) : (d.groupDisband g).GroupsSound := by
  refine emptied_groupsSound (hd.of_sublist (fun h => ?_) fun h => ?_) g .request
  · rw [modGroup_group]
    split
    · next hh => rw [hh]
    · exact List.Sublist.refl _
  · rw [modGroup_group]
    split
    · rfl
    · exact (hd.1 h).2

end requests

/-! Presets. -/

/-- A snapshot of named groups is sound where the layout is (R118, R120). -/
theorem snapshot_sound {d : Part} (hd : d.GroupsSound) {gs : List GroupNo} (hnodup : gs.Nodup) :
    Preset.Sound (gs.map d.groupEntry) := by
  refine ⟨?_, ?_, ?_⟩
  · rw [List.map_map]
    exact (List.map_id gs).symm ▸ hnodup
  · rw [List.flatMap_map]
    refine List.nodup_flatMap.2 ⟨fun g _ => (hd.1 g).1, ?_⟩
    exact hnodup.imp fun {g h} hne => List.disjoint_left.2 fun p hg hh => hne (hd.2 g h p hg hh)
  · intro e he
    obtain ⟨g, -, rfl⟩ := List.mem_map.1 he
    exact (hd.1 g).2

/-- A sound preset places a port in one entry only. -/
theorem Preset.Sound.entry_unique {pre : Preset} (h : pre.Sound) {e e' : GroupEntry} (he : e ∈ pre) (he' : e' ∈ pre) {p : PortNo}
    (hp : p ∈ e.members) (hp' : p ∈ e'.members) : e = e' := by
  obtain ⟨-, hmembers, -⟩ := h
  obtain ⟨-, hdisjoint⟩ := List.nodup_flatMap.1 hmembers
  have : Std.Symm (Function.onFun List.Disjoint fun e : GroupEntry => e.members) := ⟨fun _ _ hd => List.Disjoint.symm hd⟩
  by_contra hne
  exact hdisjoint.forall he he' hne hp hp'

theorem Preset.Sound.members_nodup {pre : Preset} (h : pre.Sound) {e : GroupEntry} (he : e ∈ pre) : e.members.Nodup := by
  obtain ⟨-, hmembers, -⟩ := h
  exact (List.nodup_flatMap.1 hmembers).1 e he

/-- Groups of which the ones that a sound preset names have its entries' members and settings, and the others no port that it places. -/
theorem groupsSound_of_preset {d : Part} {pre : Preset} (h : pre.Sound)
    (hnamed : ∀ e ∈ pre, (d.group e.group).members = e.members ∧ (d.group e.group).settings = e.settings)
    (hother : ∀ g, ¬ Part.namedBy pre g → ((d.group g).members.Nodup ∧ (d.group g).settings.legal = true) ∧
      ∀ p ∈ (d.group g).members, ∀ e ∈ pre, p ∉ e.members)
    (honce : ∀ g g' p, ¬ Part.namedBy pre g → ¬ Part.namedBy pre g' → p ∈ (d.group g).members → p ∈ (d.group g').members → g = g') :
    d.GroupsSound := by
  refine ⟨fun g => ?_, fun g g' p hg hg' => ?_⟩
  · by_cases hname : Part.namedBy pre g
    · obtain ⟨e, he, rfl⟩ := hname
      obtain ⟨hmembers, hsettings⟩ := hnamed e he
      rw [hmembers, hsettings]
      exact ⟨h.members_nodup he, h.2.2 e he⟩
    · exact (hother g hname).1
  · by_cases hname : Part.namedBy pre g <;> by_cases hname' : Part.namedBy pre g'
    · obtain ⟨e, he, rfl⟩ := hname
      obtain ⟨e', he', rfl⟩ := hname'
      rw [(hnamed e he).1] at hg
      rw [(hnamed e' he').1] at hg'
      rw [h.entry_unique he he' hg hg']
    · obtain ⟨e, he, rfl⟩ := hname
      rw [(hnamed e he).1] at hg
      exact absurd hg ((hother g' hname').2 p hg' e he)
    · obtain ⟨e', he', rfl⟩ := hname'
      rw [(hnamed e' he').1] at hg'
      exact absurd hg' ((hother g hname).2 p hg e' he')
    · exact honce g g' p hname hname' hg hg'

theorem recallApply_groupsSound {d : Part} (hd : d.GroupsSound) {pre : Preset} (h : pre.Sound) : (d.recallApply pre).GroupsSound := by
  have hmem {g : GroupNo} (hname : ¬ Part.namedBy pre g) {p : PortNo} (hp : p ∈ ((d.recallApply pre).group g).members) :
      p ∈ (d.group g).members ∧ ∀ e ∈ pre, p ∉ e.members := by
    rw [(recallApply_unnamed d hname).1] at hp
    simpa using hp
  refine groupsSound_of_preset h (fun e he => ?_) (fun g hname => ⟨?_, fun p hp => (hmem hname hp).2⟩)
    fun g g' p hname hname' hg hg' => hd.2 g g' p (hmem hname hg).1 (hmem hname' hg').1
  · obtain ⟨hmembers, hsettings, -⟩ := (recallApply_named d h.1 he).1.fields
    exact ⟨hmembers, hsettings⟩
  · obtain ⟨hmembers, hsettings⟩ := recallApply_unnamed (pre := pre) d hname
    rw [hmembers, hsettings]
    exact ⟨(hd.1 g).1.filter _, (hd.1 g).2⟩

/-! The start-up load. -/

theorem loadEntry_layout {e : GroupEntry} (d : Part) (h : e.members ≠ []) :
    ((d.loadEntry e).group e.group).members = e.members ∧ ((d.loadEntry e).group e.group).settings = e.settings := by
  unfold Part.loadEntry
  rw [if_neg (by simpa using h), refreshDissolve_group, if_pos rfl, modGroup_group_self]
  exact ⟨rfl, rfl⟩

theorem each_loadEntry_layout {pre : Preset} {e : GroupEntry} (d : Part) (he : e ∈ pre) (hm : e.members ≠ [])
    (hnodup : (pre.map fun e => e.group).Nodup) :
    ((Part.each Part.loadEntry pre d).group e.group).members = e.members ∧
      ((Part.each Part.loadEntry pre d).group e.group).settings = e.settings := by
  have helse (x : GroupEntry) (d : Part) : d.SameElsewhere x.group (d.loadEntry x) := fun k hk =>
    ⟨loadEntry_group_of_ne d (.inl hk), by rw [loadEntry_fields]; rfl⟩
  obtain ⟨m, -, hlast⟩ := each_at helse he hnodup d
  rw [hlast.1]
  exact loadEntry_layout m hm

theorem loadPreset_groupsSound {d : Part} (hreset : ∀ g, d.group g = GroupRec.reset)
    (hpresets : ∀ i pre, tget d.slots i = some pre → Preset.Sound pre) : d.loadPreset.GroupsSound := by
  have hempty {g : GroupNo} (h : d.loadPreset.group g = d.group g) (p : PortNo) : p ∉ (d.loadPreset.group g).members := by
    rw [h, hreset]
    exact List.not_mem_nil
  cases hpre : tget d.slots 0 with
  | none =>
    have hsame (g : GroupNo) : d.loadPreset.group g = d.group g :=
      loadPreset_group_of_not_formed fun pre h => absurd h (by rw [hpre]; nofun)
    refine ⟨fun g => ?_, fun g h p hg => absurd hg (hempty (hsame g) p)⟩
    rw [hsame, hreset]
    exact ⟨List.nodup_nil, rfl⟩
  | some pre =>
    have hsound := hpresets 0 pre hpre
    have hload : d.loadPreset = Part.each Part.loadEntry pre d := by
      unfold Part.loadPreset
      simp only [hpre]
    have hformed {e : GroupEntry} (he : e ∈ pre) (hm : e.members ≠ []) := each_loadEntry_layout d he hm hsound.1
    have hother {g : GroupNo} (h : ∀ e ∈ pre, e.group = g → e.members = []) : d.loadPreset.group g = GroupRec.reset := by
      rw [hload, each_loadEntry_group_of_not_formed d h, hreset]
    have hcase (g : GroupNo) : d.loadPreset.group g = GroupRec.reset ∨
        ∃ e ∈ pre, (d.loadPreset.group g).members = e.members ∧ (d.loadPreset.group g).settings = e.settings ∧ e.group = g := by
      by_cases h : ∀ e ∈ pre, e.group = g → e.members = []
      · exact .inl (hother h)
      · push Not at h
        obtain ⟨e, he, rfl, hm⟩ := h
        rw [hload]
        exact .inr ⟨e, he, (hformed he hm).1, (hformed he hm).2, rfl⟩
    refine ⟨fun g => ?_, fun g g' p hg hg' => ?_⟩
    · rcases hcase g with h | ⟨e, he, hmembers, hsettings, -⟩
      · rw [h]
        exact ⟨List.nodup_nil, rfl⟩
      · rw [hmembers, hsettings]
        exact ⟨hsound.members_nodup he, hsound.2.2 e he⟩
    · rcases hcase g with h | ⟨e, he, hmembers, -, rfl⟩
      · rw [h] at hg
        exact absurd hg List.not_mem_nil
      · rcases hcase g' with h | ⟨e', he', hmembers', -, rfl⟩
        · rw [h] at hg'
          exact absurd hg' List.not_mem_nil
        · rw [hmembers] at hg
          rw [hmembers'] at hg'
          rw [hsound.entry_unique he he' hg hg']

/-! Events and requests that leave the layout the same. -/

section leaves
variable (d : Part)

theorem Part.RadioActs.layoutSame {d t : Part} {p : PortNo} (h : d.RadioActs p t) : d.LayoutSame t :=
  h.keeps (.refl d) (fun f _ hd => hd.trans (layoutSame_modPort d p f)) fun _ _ _ hstep hd => hd.trans hstep.acts.layoutSame

theorem layoutSame_endHold (g : GroupNo) : d.LayoutSame (d.endHold g) :=
  (layoutSame_modGroup rfl rfl rfl).trans (Part.Acts.refreshDissolve _ g).layoutSame

theorem layoutSame_renewed (c : CtlNo) (g : GroupNo) : d.LayoutSame (d.renewed c g) := layoutSame_modGroup rfl rfl rfl

theorem layoutSame_holdExpiry (g : GroupNo) : d.LayoutSame (d.holdExpiry g) := by
  unfold Part.holdExpiry
  split
  · split
    · exact .refl d
    · exact (layoutSame_endHold d g).trans (layoutSame_notify _ _ _)
  · exact .refl d

theorem layoutSame_controllerPortReset (c : CtlNo) : d.LayoutSame (d.controllerPortReset c) := by
  have hhold (e : Part) (g : GroupNo) : e.LayoutSame (e.endHoldOf c g) := by
    unfold Part.endHoldOf
    split
    · exact layoutSame_endHold e g
    · exact .refl e
  have hholds (e : Part) : e.LayoutSame (Part.each (Part.endHoldOf c) (List.finRange 12) e) :=
    each_rel Part.LayoutSame _ .refl (fun _ _ _ => .trans) (fun g e => hhold e g) _ e
  have hconsole (e : Part) : e.LayoutSame (e.endConsole c) := by
    obtain ⟨g, hg⟩ := acts_endConsole e c
    exact hg.layoutSame
  have hstore (e : Part) : e.LayoutSame { e with storeOp := e.storeOp.map (StoreOp.unwanted c) } := by
    refine ⟨fun _ => rfl, fun _ => rfl, rfl, ?_, fun _ h => h⟩
    show (e.storeOp.map (StoreOp.unwanted c)).map StoreOp.kind = _
    rw [Option.map_map]
    congr 1
    funext op
    unfold Function.comp StoreOp.unwanted
    split <;> rfl
  unfold Part.controllerPortReset
  dsimp only
  generalize (d.ctl c).attached = was
  refine .trans (layoutSame_modCtl d c CtlPort.portReset) ?_
  generalize d.modCtl c CtlPort.portReset = e
  refine .trans (hholds e) ?_
  generalize Part.each (Part.endHoldOf c) (List.finRange 12) e = e
  refine .trans (hconsole e) ?_
  generalize e.endConsole c = e
  have hmonitor : e.LayoutSame (e.modConsole c fun r => { r with involvement := .none, monitor := [] }) := layoutSame_of_eq rfl rfl rfl
  refine .trans hmonitor ?_
  generalize (e.modConsole c fun r => { r with involvement := .none, monitor := [] }) = e
  refine .trans (hstore e) ?_
  split
  · exact layoutSame_notify _ _ _
  · exact .refl _

theorem layoutSame_frame (rx : Vector RxSlot 24) (mics : Vector Sample 6) : d.LayoutSame (d.frame rx mics) := by
  refine ⟨fun g => ?_, fun g => ?_, (frame_rest rx mics d).2.2.1, ?_, fun g hg => ?_⟩
  · rw [frame_group]
    rfl
  · rw [frame_group]
    rfl
  · rw [frame_storeOp, Option.map_map]
    rfl
  · rw [frame_group, hg]
    rfl

theorem layoutSame_levelBlockEnd : d.LayoutSame d.levelBlockEnd := by
  unfold Part.levelBlockEnd
  split
  · exact layoutSame_of_eq rfl rfl rfl
  · exact .refl d

theorem layoutSame_tdmFrame (rx : Vector RxSlot 24) (mics : Vector Sample 6) : d.LayoutSame (d.tdmFrame rx mics) := by
  have hports (ps : List PortNo) (e : Part) : e.LayoutSame (Part.each Part.portCatchUp ps e) :=
    each_rel Part.LayoutSame _ .refl (fun _ _ _ => .trans)
      (fun p e => portCatchUp_keeps (P := e.LayoutSame) (fun _ _ h he => he.trans h.layoutSame) (.refl e)) ps e
  unfold Part.tdmFrame Part.catchUp
  exact ((hports _ d).trans (layoutSame_levelBlockEnd _)).trans (layoutSame_frame _ rx mics)

end leaves

/-! The invariant. -/

theorem startOp_storeOp (e : Part) (c : CtlNo) (tag : Byte) (kind : StoreKind) (time : Nat) :
    (e.startOp c tag kind time).part =
      { e with storeOp := some { kind, requester := some c, responseWanted := true, tag, timeLeft := startTimer time } } := rfl

theorem Part.Prepares.kind_ne_load {d e : Part} {kind : StoreKind} (h : d.Prepares e kind) : kind ≠ .startUpLoad := by
  cases h <;> nofun

theorem prepares_layoutSound {d e : Part} {kind : StoreKind} (hd : d.LayoutSound)
    (h : d.Prepares e kind) (c : CtlNo) (tag : Byte) (time : Nat) : (e.startOp c tag kind time).part.LayoutSound := by
  rw [startOp_storeOp]
  obtain ⟨hgroups, honce, hpresets, -⟩ := hd
  have hkind : ¬ (e.startOp c tag kind time).part.loading = true := by
    rw [loading_iff]
    intro hl
    rw [startOp_storeOp] at hl
    exact h.kind_ne_load (by simpa using hl)
  have hcleared (slot i : SlotNo) (pre : Preset) (hpre : tget (d.setSlot slot none).slots i = some pre) : pre.Sound := by
    rw [setSlot_slot] at hpre
    split at hpre
    · exact nomatch hpre
    · exact hpresets i pre hpre
  cases h with
  | presetStore slot hnodup =>
    refine ⟨hgroups, honce, hcleared slot, ?_, ?_, fun hl => absurd hl hkind⟩
    · rintro op slot' pre' hop hk
      injection hop with hop
      subst hop
      injection hk with hslot hpre
      subst hslot hpre
      exact ⟨snapshot_sound ⟨hgroups, honce⟩ hnodup, by rw [setSlot_slot, if_pos rfl]⟩
    · rintro op slot' hop hk
      injection hop with hop
      subst hop
      exact nomatch hk
  | presetErase slot =>
    refine ⟨hgroups, honce, hcleared slot, ?_, ?_, fun hl => absurd hl hkind⟩
    · rintro op slot' pre' hop hk
      injection hop with hop
      subst hop
      exact nomatch hk
    · rintro op slot' hop hk
      injection hop with hop
      subst hop
      injection hk with hslot
      subst hslot
      rw [setSlot_slot, if_pos rfl]
  | portsStore | presetRead slot | presetRecall slot =>
    refine ⟨hgroups, honce, hpresets, ?_, ?_, fun hl => absurd hl hkind⟩
    · rintro op slot' pre' hop hk
      injection hop with hop
      subst hop
      exact nomatch hk
    · rintro op slot' hop hk
      injection hop with hop
      subst hop
      exact nomatch hk

/-- With the store idle, the layout is sound where the groups and the stored presets are. -/
theorem layoutSound_of_idle {d : Part} (hgroups : d.GroupsSound) (hpresets : ∀ i pre, tget d.slots i = some pre → Preset.Sound pre)
    (hidle : d.storeOp = none) : d.LayoutSound :=
  ⟨hgroups.1, hgroups.2, hpresets, fun op _ _ hop => absurd hop (by rw [hidle]; nofun), fun op _ hop => absurd hop (by rw [hidle]; nofun),
    fun hl => absurd hl (by rw [loading_iff, hidle]; nofun)⟩

theorem Part.Completes.layoutSound {d e : Part} {op : StoreOp} (h : d.Completes op e) (hop : d.storeOp = some op)
    (hd : d.LayoutSound) : e.LayoutSound := by
  have hgroups := hd.groupsSound
  obtain ⟨-, -, hpresets, hpending, -, -⟩ := hd
  cases h with
  | @presetStore slot pre hk =>
    refine layoutSound_of_idle hgroups (fun i pre' hpre => ?_) rfl
    have hpre' : tget (d.setSlot slot (some pre)).slots i = some pre' := hpre
    rw [setSlot_slot] at hpre'
    split at hpre'
    · injection hpre' with hpre'
      exact hpre' ▸ (hpending op slot pre hop hk).1
    · exact hpresets i pre' hpre'
  | portsStore hk => exact layoutSound_of_idle hgroups hpresets rfl
  | nothing hk => exact layoutSound_of_idle hgroups hpresets rfl
  | @recalled slot pre hk hpre hheld =>
    obtain ⟨-, -, -, -, -, -, hslots, -, hstore⟩ := recallApply_undisturbed (pre := pre) { d with storeOp := none }
    refine layoutSound_of_idle (recallApply_groupsSound (d := { d with storeOp := none }) hgroups (hpresets slot pre hpre)) ?_ hstore
    rw [hslots]
    exact hpresets

theorem Part.StoreCompletes.layoutSound {d t : Part} (h : d.StoreCompletes t) (hd : d.LayoutSound) : t.LayoutSound := by
  rcases h with rfl | ⟨op, e, hop, hcompletes, kind, st, data, rfl⟩
  · exact hd
  · have he := hcompletes.layoutSound hop hd
    rcases answersFor_cases e op kind st data with h | ⟨c, f, h⟩
    · rwa [h]
    · rw [h]
      exact he.of_same (layoutSame_modCtl e c f)

theorem deviceReset_layoutSound {d : Part} (hd : d.LayoutSound) : d.deviceReset.LayoutSound := by
  obtain ⟨-, -, hpresets, -⟩ := hd
  have hgroup (g : GroupNo) : d.deviceReset.group g = GroupRec.reset := tget_replicate ..
  refine ⟨fun g => ?_, fun g h p hg => ?_, hpresets, ?_, ?_, fun _ => hgroup⟩
  · rw [hgroup]
    exact ⟨List.nodup_nil, rfl⟩
  · rw [hgroup] at hg
    exact absurd hg List.not_mem_nil
  · rintro op slot pre hop hk
    injection hop with hop
    subst hop
    exact nomatch hk
  · rintro op slot hop hk
    injection hop with hop
    subst hop
    exact nomatch hk

theorem loadDone_layoutSound {d : Part} (hd : d.LayoutSound) : d.loadDone.LayoutSound := by
  unfold Part.loadDone
  split
  · next hload =>
    obtain ⟨-, -, hpresets, -, -, hreset⟩ := hd
    have hports : d.loadPorts.slots = d.slots ∧ ∀ g, d.loadPorts.group g = d.group g := by
      rw [loadPorts_fields]
      exact ⟨rfl, fun _ => rfl⟩
    have hslots : d.loadPorts.loadPreset.slots = d.slots := by
      rw [loadPreset_fields]
      exact hports.1
    have hgroups : d.loadPorts.loadPreset.GroupsSound :=
      loadPreset_groupsSound (fun g => (hports.2 g).trans (hreset hload g)) (by rwa [hports.1])
    refine layoutSound_of_idle (d := d.loadPorts.loadPreset.storeIdle) hgroups ?_ rfl
    show ∀ i pre, tget d.loadPorts.loadPreset.slots i = some pre → pre.Sound
    rwa [hslots]
  · exact hd

theorem dissolveExpiry_layoutSound {d : Part} (hd : d.LayoutSound) (g : GroupNo) : (d.dissolveExpiry g).LayoutSound := by
  unfold Part.dissolveExpiry
  split
  · next htimer =>
    have hload : d.loading = false := by
      by_contra hload
      obtain ⟨-, -, -, -, -, hreset⟩ := hd
      rw [hreset (Bool.eq_true_of_not_eq_false hload) g] at htimer
      exact nomatch htimer
    have hquiet : (d.setMembers g []).Quiet (d.removeAll g) := .removeAll d g
    obtain ⟨-, -, -, -, -, -, -, -, hslots, -, hstore⟩ := hquiet
    have hkind : ((d.removeAll g).bumpRevision g .dissolve).storeOp.map StoreOp.kind = d.storeOp.map StoreOp.kind :=
      congrArg (Option.map StoreOp.kind) hstore
    refine layoutSound_of_groups hd (emptied_groupsSound hd.groupsSound g .dissolve) hslots (.inr hkind) ?_
    rwa [loading_congr hkind]
  · exact hd

/-! The requests. -/

section requests
variable (d : Part) (g : GroupNo) (p : PortNo)

theorem bumpRevision_undisturbed (cause : LayoutCause) : d.Undisturbed (d.bumpRevision g cause) := by
  rw [bumpRevision_revised]
  exact revised_undisturbed d g cause

theorem joinGroup_undisturbed : d.Undisturbed (d.joinGroup g p) :=
  (modGroup_undisturbed d g _).trans (Part.Acts.reportJoin _ g p).quiet.undisturbed

theorem removeAll_undisturbed : d.Undisturbed (d.removeAll g) :=
  (modGroup_undisturbed d g _).trans (Part.Quiet.removeAll d g).undisturbed

theorem moveOut_undisturbed (o : Option GroupNo) : d.Undisturbed (d.moveOut p o) := by
  unfold Part.moveOut
  cases o with
  | none => exact .refl d
  | some o => exact (leaveGroup_undisturbed o p d).trans (bumpRevision_undisturbed _ o .moved)

theorem groupAdd_undisturbed : d.Undisturbed (d.groupAdd g p) :=
  ((moveOut_undisturbed d p _).trans (joinGroup_undisturbed _ g p)).trans (bumpRevision_undisturbed _ g .request)

theorem groupRemove_undisturbed : d.Undisturbed (d.groupRemove g p) :=
  (leaveGroup_undisturbed g p d).trans (bumpRevision_undisturbed _ g .request)

theorem groupSet_undisturbed (s : GroupSettings) : d.Undisturbed (d.groupSet g s) :=
  (modGroup_undisturbed d g _).trans (bumpRevision_undisturbed _ g .request)

theorem groupDisband_undisturbed : d.Undisturbed (d.groupDisband g) :=
  ((modGroup_undisturbed d g _).trans (removeAll_undisturbed _ g)).trans (bumpRevision_undisturbed _ g .request)

variable {d}

/-- A layout request is carried out while nothing loads: the layout is sound after it where the groups are. -/
theorem layoutSound_of_request {t : Part} (hd : d.LayoutSound) (hload : d.loading = false) (h : d.Undisturbed t)
    (hgroups : t.GroupsSound) : t.LayoutSound := by
  obtain ⟨-, -, -, -, -, -, hslots, -, hstore⟩ := h
  have hkind : t.storeOp.map StoreOp.kind = d.storeOp.map StoreOp.kind := congrArg (Option.map StoreOp.kind) hstore
  exact layoutSound_of_groups hd hgroups hslots (.inr hkind) (by rwa [loading_congr hkind])

end requests

theorem Part.CarriesOut.layoutSound {c : CtlNo} {k : ReqKind} {d t : Part} (h : Part.CarriesOut c k d t) (hload : d.loading = false)
    (hd : d.LayoutSound) : t.LayoutSound := by
  have hgroups := hd.groupsSound
  cases h with
  | nothing => exact hd
  | attach _ mode pol =>
    refine hd.of_same ?_
    unfold Part.attach
    dsimp only
    split
    · exact layoutSame_modCtl d c _
    · exact (layoutSame_modCtl d c _).trans (layoutSame_notify _ _ _)
  | detach => exact hd.of_same ((layoutSame_controllerPortReset d c).trans (layoutSame_modCtl _ c _))
  | noticeMask _ ks => exact hd.of_same (layoutSame_modCtl d c _)
  | groupAdd _ g p hp => exact layoutSound_of_request hd hload (groupAdd_undisturbed d g p) (groupAdd_groupsSound hgroups hp)
  | groupRemove _ g p hp => exact layoutSound_of_request hd hload (groupRemove_undisturbed d g p) (groupRemove_groupsSound hgroups g p)
  | groupSet _ g hs => exact layoutSound_of_request hd hload (groupSet_undisturbed d g _) (groupSet_groupsSound hgroups g hs)
  | groupDisband _ g => exact layoutSound_of_request hd hload (groupDisband_undisturbed d g) (groupDisband_groupsSound hgroups g)
  | @hold _ g hnone hone =>
    have hbegin : d.Undisturbed (d.beginHold c g) :=
      (modGroup_undisturbed d g _).trans (Part.Acts.refreshDissolve _ g).quiet.undisturbed
    have hsame : ∀ h, ((d.beginHold c g).group h).members = (d.group h).members ∧
        ((d.beginHold c g).group h).settings = (d.group h).settings := by
      intro h
      unfold Part.beginHold
      have hrefresh := ((Part.Acts.refreshDissolve
        (d.modGroup g fun r => { r with holdHolder := some c, holdTimer := startTimer Config.holdTime }) g).quiet.rewritten h).fields
      rw [hrefresh.1, hrefresh.2.1, modGroup_group]
      split
      · next heq => exact heq ▸ ⟨rfl, rfl⟩
      · exact ⟨rfl, rfl⟩
    exact layoutSound_of_request hd hload hbegin (hgroups.of_same (fun h => (hsame h).1) fun h => (hsame h).2)
  | release _ g => exact hd.of_same (layoutSame_endHold d g)
  | portSet _ p hs => exact hd.of_same (portSet_acts d p hs).layoutSame
  | portClear _ hout => exact hd.of_same (portClear_acts d _ hout).layoutSame
  | setOwner _ p owner => exact hd.of_same (setOwner_acts d p owner).layoutSame
  | consoleSet _ cls gs => exact hd.of_same (layoutSame_of_eq rfl rfl rfl)
  | talkRequest _ em hformed hinv => exact hd.of_same (talkRequest_acts d _ c em).layoutSame
  | talkStart _ hinv hst => exact hd.of_same (talkStart_acts d _).layoutSame
  | talkEnd _ hinv hst => exact hd.of_same (Part.Acts.normalEnd d _).layoutSame
  | leaveList _ hinv => exact hd.of_same (Part.Acts.leaveList d _ _).layoutSame
  | lapseGrant _ hinv hst => exact hd.of_same (Part.Acts.lapseGrant d _ _).layoutSame
  | clearFloor _ g => exact hd.of_same (Part.Acts.clearFloor d g _ _).layoutSame

theorem layoutSound_keptByTakes : Part.KeptByTakes Part.LayoutSound where
  take c d hd := hd.of_same (layoutSame_modCtl d c _)
  respond c _ _ _ _ d hd := hd.of_same (layoutSame_modCtl d c _)
  renewed c g d hd := hd.of_same (layoutSame_renewed d c g)
  carriesOut h _ hload hd := h.layoutSound hload hd
  starts c tag _ _ _ time _ h hd := prepares_layoutSound hd h c tag time

theorem effect_layoutSound (i : Instr) (d : Part) (hd : d.LayoutSound) : (Instr.effect i d).LayoutSound := by
  have hradio {t : Part} {p : PortNo} (h : d.RadioActs p t) : t.LayoutSound := hd.of_same h.layoutSame
  have hacts {t : Part} {g : GroupNo} (h : d.Acts g t) : t.LayoutSound := hd.of_same h.layoutSame
  have hlink {t : Part} {c : CtlNo} (h : d.LinkActs c t) : t.LayoutSound := by
    obtain ⟨f, -, rfl⟩ := h
    exact hd.of_same (layoutSame_modCtl d c f)
  cases i with
  | deviceReset => exact deviceReset_layoutSound hd
  | startUpLoadCompletion => exact loadDone_layoutSound hd
  | portResetAsserted c => exact hd.of_same ((layoutSame_modCtl d c _).trans (layoutSame_controllerPortReset _ c))
  | portResetReleased c => exact hd.of_same (layoutSame_modCtl d c _)
  | directionByte c part => exact hlink (directionByte_link c d part)
  | frameCompletion c bytes => exact hlink (frameCompletion_link c d bytes)
  | linkCycleEnd c => exact hd.of_same (layoutSame_modCtl d c _)
  | removal c => exact hlink (removal_link c d)
  | unknownKind c => exact layoutSound_keptByTakes.unknownKind c hd
  | presetStoreCompletion => exact (presetStoreDone_completes d).layoutSound hd
  | portsStoreCompletion => exact (portsStoreDone_completes d).layoutSound hd
  | presetEraseCompletion => exact (presetEraseDone_completes d).layoutSound hd
  | presetReadCompletion => exact (presetReadDone_completes d).layoutSound hd
  | presetRecallCompletion => exact (presetRecallDone_completes d).layoutSound hd
  | emergencyStatusAsserted p => exact hradio (emergencyAsserted_acts d p)
  | emergencyStatusReleased p => exact hradio (emergencyReleased_acts d p)
  | linkLoss p => exact hradio (linkLoss_acts d p)
  | linkReturn p => exact hradio (linkReturn_acts d p)
  | restartTimerExpiry p => exact hradio (restartTimerExpiry_acts d p)
  | restartPulseEnd p => exact hradio (restartPulseEnd_acts d p)
  | guardEnd p => exact hradio (guardEnd_acts d p)
  | qualifiedCarrierYes p => exact hradio (carrierYes_acts d p)
  | qualifiedCarrierNo p => exact hradio (carrierNo_acts d p)
  | levelBlockEnd => exact hd.of_same (layoutSame_levelBlockEnd d)
  | tdmFrame rx mics => exact hd.of_same (layoutSame_tdmFrame d rx mics)
  | transmitLimitExpiry p => exact hradio (transmitLimitExpiry_acts d p)
  | carrierLimitExpiry p => exact hradio (carrierLimitExpiry_acts d p)
  | cooldownExpiry p => exact hradio (cooldownExpiry_acts d p)
  | hangTimerExpiry g => exact hacts (hangExpiry_acts d g)
  | grantWindowExpiry g => exact hacts (windowExpiry_acts d g)
  | preemptTimerExpiry g => exact hacts (preemptExpiry_acts d g)
  | dissolveTimerExpiry g => exact dissolveExpiry_layoutSound hd g
  | holdTimerExpiry g => exact hd.of_same (layoutSame_holdExpiry d g)
  | _ => exact layoutSound_keptByTakes.serve _ _ hd

/-- Settles O56: every effect of a command keeps the layout sound. -/
theorem layoutKept : Obligations.LayoutKept := fun _ _ hs hstep => step_keeps effect_layoutSound hs hstep

end Sys2Proof.Machine
end

section
/-!
PROOFS. What the orders and the events of chapters 1 and 2 keep of one port record (O57): its settings legal, its counts within their
lengths, its timers in line with its state, no carrier and no run under suppression.
-/

namespace Sys2Proof.Machine

/-- What holds of a port record whatever its state. -/
structure PortRec.Framed (r : PortRec) : Prop where
  legal : r.settings.legal = true
  stopped : r.restartPhase = .stopped ↔ r.restartTimer = none
  restarting : r.restartPhase ≠ .stopped → r.linkUp = false
  emergency : r.emergencyCount ≤ 160
  link : r.linkCount ≤ if r.linkUp = true then 160 else 100
  run : r.runCount ≤ r.runLength
  level : r.rawLevel ≤ 63

/-- The timers run in their states, and the state goes with the link (R6, R7, R24). -/
structure PortRec.InState (r : PortRec) : Prop where
  transmit : r.state ≠ .keyed → r.transmitTimer = none
  carrier : r.state ≠ .source → r.carrierTimer = none
  cooldown : r.cooldownTimer ≠ none ↔ r.state = .cooldown
  down : r.linkUp = false → r.state = .offline ∨ r.state = .latched
  up : r.linkUp = true → r.state ≠ .offline

/-- A sound port record: under suppression it has no carrier and no run (R11). -/
structure PortRec.Sound (r : PortRec) : Prop extends r.Framed, r.InState where
  quiet : r.Suppressed → r.carrier = false ∧ r.runCount = 0

/-! Suppression and changes of state. -/

theorem settle_cases (was : Bool) (x : PortRec) :
    x.settle was = x.quiet ∨ ¬ x.Suppressed ∧ (x.settle was = x.refiltered ∨ x.settle was = x) := by
  unfold PortRec.settle
  split
  · exact .inl rfl
  · next h =>
    refine .inr ⟨fun hs => h ((suppressed_iff x).2 hs), ?_⟩
    split
    · exact .inl rfl
    · exact .inr rfl

theorem PortRec.Framed.quiet {x : PortRec} (h : x.Framed) : x.quiet.Framed :=
  ⟨h.legal, h.stopped, h.restarting, h.emergency, h.link, Nat.zero_le _, h.level⟩

theorem PortRec.Framed.refiltered {x : PortRec} (h : x.Framed) : x.refiltered.Framed :=
  ⟨h.legal, h.stopped, h.restarting, h.emergency, h.link, Nat.zero_le _, h.level⟩

theorem PortRec.Sound.refiltered {x : PortRec} (h : x.Sound) : x.refiltered.Sound :=
  { h.toFramed.refiltered with
    transmit := h.transmit, carrier := h.toInState.carrier, cooldown := h.cooldown, down := h.down, up := h.up
    quiet := fun _ => ⟨rfl, rfl⟩ }

/-- Settling a change brings a record in line with suppression, whatever it was before. -/
theorem settle_sound {x : PortRec} (was : Bool) (hframed : x.Framed) (hstate : x.InState) : (x.settle was).Sound := by
  have hquiet (y : PortRec) (hy : y = x.quiet ∨ y = x.refiltered) : y.Sound := by
    rcases hy with rfl | rfl
    · exact
        { hframed.quiet with
          transmit := hstate.transmit, carrier := hstate.carrier, cooldown := hstate.cooldown, down := hstate.down, up := hstate.up
          quiet := fun _ => ⟨rfl, rfl⟩ }
    · exact
        { hframed.refiltered with
          transmit := hstate.transmit, carrier := hstate.carrier, cooldown := hstate.cooldown, down := hstate.down, up := hstate.up
          quiet := fun _ => ⟨rfl, rfl⟩ }
  rcases settle_cases was x with h | ⟨hopen, h | h⟩
  · exact hquiet _ (.inl h)
  · exact hquiet _ (.inr h)
  · rw [h]
    exact { hframed, hstate with quiet := fun hs => absurd hs hopen }

theorem startGuard_framed {r : PortRec} (h : r.Framed) : r.startGuard.Framed := by
  rw [startGuard_eq]
  exact ⟨h.legal, h.stopped, h.restarting, h.emergency, h.link, h.run, h.level⟩

theorem startGuard_inState {r : PortRec} (h : r.InState) : r.startGuard.InState := by
  rw [startGuard_eq]
  exact ⟨h.transmit, h.carrier, h.cooldown, h.down, h.up⟩

theorem enter_framed {r : PortRec} (st : PortState) (h : r.Framed) : (r.enter st).Framed :=
  ⟨h.legal, h.stopped, h.restarting, h.emergency, h.link, h.run, h.level⟩

theorem enter_inState {r : PortRec} {st : PortState} (hdown : r.linkUp = false → st = .offline ∨ st = .latched)
    (hup : r.linkUp = true → st ≠ .offline) : (r.enter st).InState where
  transmit h := if_neg h
  carrier h := if_neg h
  cooldown := by
    unfold PortRec.enter startTimer
    dsimp only
    split
    · next h => exact ⟨fun _ => h, fun _ => nofun⟩
    · next h => exact ⟨fun hn => absurd rfl hn, fun hst => absurd hst h⟩
  down := hdown
  up := hup

/-- A change of state, to a state that goes with the link. -/
theorem goTo_sound {r : PortRec} {st : PortState} (h : r.Framed) (hdown : r.linkUp = false → st = .offline ∨ st = .latched)
    (hup : r.linkUp = true → st ≠ .offline) : (r.goTo st).Sound := by
  have hframed := enter_framed st h
  have hstate := enter_inState hdown hup
  unfold PortRec.goTo PortRec.change
  dsimp only
  split
  · exact settle_sound _ (startGuard_framed hframed) (startGuard_inState hstate)
  · exact settle_sound _ hframed hstate

theorem linkUp_of_inService {r : PortRec} (h : r.InState) (hoff : r.state ≠ .offline) (hlatched : r.state ≠ .latched) :
    r.linkUp = true := by
  by_contra hdown
  rcases h.down (Bool.eq_false_iff.2 hdown) with hst | hst
  · exact hoff hst
  · exact hlatched hst

/-- With the link UP a port may be in any state but OFFLINE. -/
theorem goTo_sound_of_linkUp {r : PortRec} {st : PortState} (h : r.Framed) (hup : r.linkUp = true) (hst : st ≠ .offline) :
    (r.goTo st).Sound :=
  goTo_sound h (fun hdown => absurd (hup.symm.trans hdown) nofun) fun _ => hst

/-! Orders. -/

theorem PortOrder.sound {f : PortRec → PortRec} (hf : PortOrder f) {r : PortRec} (h : r.Sound) : (f r).Sound := by
  have hup (hst : r.state = .idle ∨ r.state = .keyed ∨ r.state = .source) : r.linkUp = true :=
    linkUp_of_inService h.toInState (by rcases hst with hst | hst | hst <;> rw [hst] <;> nofun)
      (by rcases hst with hst | hst | hst <;> rw [hst] <;> nofun)
  cases hf with
  | key =>
    unfold PortRec.key
    split
    · next hst => exact goTo_sound_of_linkUp h.toFramed (hup (.inl hst)) nofun
    · exact h
  | unkey =>
    unfold PortRec.unkey
    split
    · next hst => exact goTo_sound_of_linkUp h.toFramed (hup (.inr (.inl hst))) nofun
    · exact h
  | grant =>
    unfold PortRec.grant
    split
    · next hst => exact goTo_sound_of_linkUp h.toFramed (hup (hst.imp_right .inl)) nofun
    · exact h
  | preempt =>
    unfold PortRec.preempt
    split
    · next hst => exact (goTo_sound_of_linkUp (st := .keyed) h.toFramed (hup (.inr (.inr hst))) nofun).refiltered
    · exact h
  | strip =>
    unfold PortRec.strip PortRec.change
    split
    · next hst =>
      have hlink := hup (.inr (.inr hst))
      exact settle_sound _ (startGuard_framed (enter_framed .idle h.toFramed))
        (startGuard_inState (enter_inState (fun hdown => absurd (hlink.symm.trans hdown) nofun) fun _ => nofun))
    · exact h
  | removed =>
    unfold PortRec.removed
    split
    · next hst => exact goTo_sound_of_linkUp h.toFramed (hup (.inr hst)) nofun
    · exact h
  | endTalk =>
    unfold PortRec.endTalk
    split
    · next hst => exact goTo_sound_of_linkUp h.toFramed (hup (.inr (.inr hst))) nofun
    · exact h

/-! Events. -/

theorem startRestart_sound {r : PortRec} (h : r.Sound) (hdown : r.linkUp = false) : r.startRestart.Sound := by
  unfold PortRec.startRestart
  split
  · exact { h with stopped := ⟨fun _ => rfl, fun _ => rfl⟩, restarting := fun hne => absurd rfl hne }
  · exact { h with stopped := ⟨nofun, nofun⟩, restarting := fun _ => hdown }

theorem loseLink_sound {r : PortRec} (h : r.Sound) : r.loseLink.Sound := by
  have hframed : ({ r with linkUp := false, linkCount := 0 } : PortRec).Framed :=
    { h.toFramed with restarting := fun _ => rfl, link := Nat.zero_le _ }
  unfold PortRec.loseLink
  dsimp only
  split
  · next hst =>
    refine startRestart_sound ?_ rfl
    exact { hframed, h with link := Nat.zero_le _, restarting := fun _ => rfl, down := fun _ => hst.symm, up := nofun }
  · refine startRestart_sound (goTo_sound hframed (fun _ => .inl rfl) nofun) ?_
    rw [goTo_fields]

theorem returnLink_sound {r : PortRec} (test : Bool) (h : r.Sound) : (r.returnLink test).Sound := by
  have hframed : ({ r with linkUp := true, linkCount := 0, restartPhase := .stopped, restartTimer := none } : PortRec).Framed :=
    { h.toFramed with
      stopped := ⟨fun _ => rfl, fun _ => rfl⟩, restarting := fun hne => absurd rfl hne, link := Nat.zero_le _ }
  unfold PortRec.returnLink
  dsimp only
  split
  · refine goTo_sound_of_linkUp hframed rfl ?_
    split <;> nofun
  · next hst =>
    exact
      { hframed, h with
        stopped := hframed.stopped, restarting := hframed.restarting, link := hframed.link, down := nofun, up := fun _ => hst }

/-- PORT-SET: with the filter restarted, the restart timer is stopped, or started by its new timeout, or goes on. -/
theorem applySettings_sound {r : PortRec} {s : PortSettings} (h : r.Sound) (hs : s.legal = true) : (r.applySettings s).Sound := by
  have hset : ({ r with settings := s } : PortRec).refiltered.Sound :=
    { h with legal := hs, run := Nat.zero_le _, quiet := fun _ => ⟨rfl, rfl⟩ }
  rw [applySettings_eq]
  dsimp only
  split
  · exact { hset with stopped := ⟨fun _ => rfl, fun _ => rfl⟩, restarting := fun hne => absurd rfl hne }
  · split
    · next hstart =>
      rw [← restarted_eq]
      exact startRestart_sound hset hstart.2.2.1
    · exact hset

theorem PortRec.Event.sound {loading : Bool} {r r' : PortRec} (he : r.Event loading r') (h : r.Sound) : r'.Sound := by
  cases he with
  | emergency on => exact { h with emergency := Nat.zero_le _ }
  | loseLink hload => exact loseLink_sound h
  | returnLink test hload => exact returnLink_sound test h
  | pulse hphase => exact { h with stopped := ⟨nofun, nofun⟩, restarting := fun _ => h.restarting (by rw [hphase]; nofun) }
  | restart hphase => exact startRestart_sound h (h.restarting (by rw [hphase]; nofun))
  | guardEnd =>
    exact settle_sound _ ⟨h.legal, h.stopped, h.restarting, h.emergency, h.link, h.run, h.level⟩
      ⟨h.transmit, h.toInState.carrier, h.cooldown, h.down, h.up⟩
  | carrierYes hsup =>
    have hopen : ¬ r.Suppressed := fun hs => by rw [(suppressed_iff r).2 hs] at hsup; exact nomatch hsup
    exact { h with run := Nat.zero_le _, quiet := fun hs => absurd hs hopen }
  | carrierNo => exact { h with run := Nat.zero_le _, quiet := fun _ => ⟨rfl, rfl⟩ }
  | limitOut hst =>
    refine goTo_sound_of_linkUp h.toFramed (linkUp_of_inService h.toInState ?_ ?_) ?_
    · rcases hst with hst | hst <;> rw [hst] <;> nofun
    · rcases hst with hst | hst <;> rw [hst] <;> nofun
    · split <;> nofun
  | cooldownEnd hcool hst =>
    refine goTo_sound_of_linkUp h.toFramed (linkUp_of_inService h.toInState ?_ ?_) ?_
    · rw [hcool]; nofun
    · rw [hcool]; nofun
    · rcases hst with hst | hst <;> rw [hst] <;> nofun
  | clear hout hst =>
    refine goTo_sound h.toFramed (fun hdown => ?_) fun hup => ?_
    · rw [if_neg (by rw [hdown]; nofun)] at hst
      exact .inl hst
    · rw [if_pos hup] at hst
      rcases hst with hst | hst <;> rw [hst] <;> nofun
  | applySettings hs => exact applySettings_sound h hs
  | setOwner c => exact { h with legal := h.legal }

/-! A port that stays out of service while the start-up load runs. -/

/-- OFFLINE with the link DOWN. -/
def PortRec.Absent (r : PortRec) : Prop := r.linkUp = false ∧ r.state = .offline

theorem PortOrder.absent {f : PortRec → PortRec} (hf : PortOrder f) {r : PortRec} (h : r.Absent) : (f r).Absent := by
  obtain ⟨-, hkeep⟩ := hf.floorActed r
  rwa [hkeep (.inl h.2)]

theorem PortRec.Event.absent {r r' : PortRec} (he : r.Event true r') (h : r.Absent) : r'.Absent := by
  obtain ⟨hdown, hoff⟩ := h
  cases he with
  | emergency on | pulse hphase | carrierYes hsup | carrierNo | setOwner c => exact ⟨hdown, hoff⟩
  | loseLink hload => exact nomatch hload
  | returnLink test hload => exact nomatch hload
  | restart hphase => unfold PortRec.startRestart; split <;> exact ⟨hdown, hoff⟩
  | guardEnd => exact ⟨(settle_linkUp ..).trans hdown, (settle_state ..).trans hoff⟩
  | limitOut hst => rw [hoff] at hst; exact nomatch hst
  | cooldownEnd hcool hst => rw [hoff] at hcool; exact nomatch hcool
  | clear hout hst => rw [hoff] at hout; exact nomatch hout
  | applySettings hs =>
    rw [applySettings_eq]
    dsimp only
    rw [← restarted_eq]
    unfold PortRec.startRestart
    repeat' split
    all_goals exact ⟨hdown, hoff⟩

/-! Counts that have not reached their lengths. -/

/-- Neither the debounce count, nor the link monitor's where it runs, nor a run of the filter is due. -/
structure PortRec.NotDue (loading : Bool) (r : PortRec) : Prop where
  emergency : r.emergencyCount < 160
  link : loading = true ∨ r.linkCount < if r.linkUp = true then 160 else 100
  run : r.runCount = 0 ∨ r.runCount < r.runLength

/-- A change that brings no count nearer to its length: each count stays, or is cleared. -/
structure PortRec.NoNearer (r r' : PortRec) : Prop where
  emergency : r'.emergencyCount = 0 ∨ r'.emergencyCount = r.emergencyCount
  link : r'.linkCount = 0 ∨ r'.linkCount = r.linkCount ∧ r'.linkUp = r.linkUp
  run : r'.runCount = 0 ∨ r'.runCount = r.runCount ∧ r'.runLength = r.runLength

theorem PortRec.NoNearer.refl (r : PortRec) : r.NoNearer r := ⟨.inr rfl, .inr ⟨rfl, rfl⟩, .inr ⟨rfl, rfl⟩⟩

theorem PortRec.NoNearer.trans {a b c : PortRec} (h : a.NoNearer b) (h' : b.NoNearer c) : a.NoNearer c := by
  refine ⟨?_, ?_, ?_⟩
  · rcases h'.emergency with h' | h'
    · exact .inl h'
    · rw [h']; exact h.emergency
  · rcases h'.link with h' | ⟨h', hup⟩
    · exact .inl h'
    · rw [h', hup]; exact h.link
  · rcases h'.run with h' | ⟨h', hlen⟩
    · exact .inl h'
    · rw [h', hlen]; exact h.run

theorem settle_noNearer (was : Bool) (x : PortRec) : x.NoNearer (x.settle was) := by
  refine ⟨.inr (settle_emergencyCount ..), .inr ⟨settle_linkCount .., settle_linkUp ..⟩, ?_⟩
  rcases settle_cases was x with h | ⟨-, h | h⟩ <;> rw [h]
  · exact .inl rfl
  · exact .inl rfl
  · exact .inr ⟨rfl, rfl⟩

theorem startGuard_noNearer (r : PortRec) : r.NoNearer r.startGuard := by
  rw [startGuard_eq]
  exact ⟨.inr rfl, .inr ⟨rfl, rfl⟩, .inr ⟨rfl, rfl⟩⟩

theorem enter_noNearer (st : PortState) (r : PortRec) : r.NoNearer (r.enter st) := ⟨.inr rfl, .inr ⟨rfl, rfl⟩, .inr ⟨rfl, rfl⟩⟩

theorem refiltered_noNearer (r : PortRec) : r.NoNearer r.refiltered := ⟨.inr rfl, .inr ⟨rfl, rfl⟩, .inl rfl⟩

theorem goTo_noNearer (st : PortState) (r : PortRec) : r.NoNearer (r.goTo st) := by
  unfold PortRec.goTo PortRec.change
  dsimp only
  refine .trans ?_ (settle_noNearer _ _)
  split
  · exact (enter_noNearer st r).trans (startGuard_noNearer _)
  · exact enter_noNearer st r

theorem PortOrder.noNearer {f : PortRec → PortRec} (hf : PortOrder f) (r : PortRec) : r.NoNearer (f r) := by
  cases hf with
  | key =>
    unfold PortRec.key
    split
    · exact goTo_noNearer _ r
    · exact .refl r
  | unkey =>
    unfold PortRec.unkey
    split
    · exact goTo_noNearer _ r
    · exact .refl r
  | grant =>
    unfold PortRec.grant
    split
    · exact goTo_noNearer _ r
    · exact .refl r
  | removed =>
    unfold PortRec.removed
    split
    · exact goTo_noNearer _ r
    · exact .refl r
  | endTalk =>
    unfold PortRec.endTalk
    split
    · exact goTo_noNearer _ r
    · exact .refl r
  | preempt =>
    unfold PortRec.preempt
    split
    · exact (goTo_noNearer _ r).trans (refiltered_noNearer _)
    · exact .refl r
  | strip =>
    unfold PortRec.strip PortRec.change
    split
    · exact ((enter_noNearer _ r).trans (startGuard_noNearer _)).trans (settle_noNearer _ _)
    · exact .refl r

theorem startRestart_noNearer (r : PortRec) : r.NoNearer r.startRestart := by
  unfold PortRec.startRestart
  split <;> exact ⟨.inr rfl, .inr ⟨rfl, rfl⟩, .inr ⟨rfl, rfl⟩⟩

theorem PortRec.Event.noNearer {loading : Bool} {r r' : PortRec} (he : r.Event loading r') : r.NoNearer r' := by
  have hlost : r.NoNearer { r with linkUp := false, linkCount := 0 } := ⟨.inr rfl, .inl rfl, .inr ⟨rfl, rfl⟩⟩
  have hback : r.NoNearer { r with linkUp := true, linkCount := 0, restartPhase := .stopped, restartTimer := none } :=
    ⟨.inr rfl, .inl rfl, .inr ⟨rfl, rfl⟩⟩
  cases he with
  | emergency on => exact ⟨.inl rfl, .inr ⟨rfl, rfl⟩, .inr ⟨rfl, rfl⟩⟩
  | loseLink hload =>
    unfold PortRec.loseLink
    dsimp only
    split
    · exact hlost.trans (startRestart_noNearer _)
    · exact (hlost.trans (goTo_noNearer _ _)).trans (startRestart_noNearer _)
  | returnLink test hload =>
    unfold PortRec.returnLink
    dsimp only
    split
    · exact hback.trans (goTo_noNearer _ _)
    · exact hback
  | pulse hphase | setOwner c => exact ⟨.inr rfl, .inr ⟨rfl, rfl⟩, .inr ⟨rfl, rfl⟩⟩
  | carrierYes hsup | carrierNo => exact ⟨.inr rfl, .inr ⟨rfl, rfl⟩, .inl rfl⟩
  | restart hphase => exact startRestart_noNearer r
  | guardEnd =>
    have hguard : r.NoNearer { r with guard := none } := ⟨.inr rfl, .inr ⟨rfl, rfl⟩, .inr ⟨rfl, rfl⟩⟩
    exact hguard.trans (settle_noNearer _ _)
  | limitOut hst => exact goTo_noNearer _ r
  | cooldownEnd hcool hst => exact goTo_noNearer _ r
  | clear hout hst => exact goTo_noNearer _ r
  | @applySettings s hs =>
    have hset : r.NoNearer ({ r with settings := s } : PortRec).refiltered := ⟨.inr rfl, .inr ⟨rfl, rfl⟩, .inl rfl⟩
    rw [applySettings_eq]
    dsimp only
    rw [← restarted_eq]
    split
    · exact ⟨hset.emergency, hset.link, hset.run⟩
    · split
      · exact hset.trans (startRestart_noNearer _)
      · exact hset

/-- The two limits of a debounce count that has not grown. -/
theorem PortRec.NoNearer.emergency_lt {r r' : PortRec} (h : r.NoNearer r') (hr : r.emergencyCount < 160) : r'.emergencyCount < 160 := by
  rcases h.emergency with h | h <;> omega

theorem PortRec.NoNearer.link_lt {r r' : PortRec} (h : r.NoNearer r') (hr : r.linkCount < if r.linkUp = true then 160 else 100) :
    r'.linkCount < if r'.linkUp = true then 160 else 100 := by
  rcases h.link with h | ⟨h, hup⟩
  · rw [h]
    split <;> decide
  · rwa [h, hup]

theorem PortRec.NoNearer.run_lt {r r' : PortRec} (h : r.NoNearer r') (hr : r.runCount = 0 ∨ r.runCount < r.runLength) :
    r'.runCount = 0 ∨ r'.runCount < r'.runLength := by
  rcases h.run with h | ⟨h, hlen⟩
  · exact .inl h
  · rwa [h, hlen]

end Sys2Proof.Machine
end

section
/-!
PROOFS. The radio-port invariant (O57). All that is not an event of a port, a frame, a reset or the store is a run of the arbiter's
steps and of changes outside the port records; what it keeps is said once. A frame first takes the counts that are due, so that no
count passes its length.
-/

namespace Sys2Proof.Machine

/-! Operations that act on port records by orders alone. -/

/-- A step of the arbiter, a change of a group or of a console, or notices. -/
inductive Part.WorkStep : Part → Part → Prop
  | act {g : GroupNo} {d t : Part} (h : Part.ActStep g d t) : WorkStep d t
  | group (d : Part) (g : GroupNo) (f : GroupRec → GroupRec) : WorkStep d (d.modGroup g f)
  | tell (d : Part) (rc : CtlNo → Bool) (n : Notice) : WorkStep d (d.notify rc n)
  | console (d : Part) (c : CtlNo) (f : ConsoleRec → ConsoleRec) : WorkStep d (d.modConsole c f)

def Part.Works : Part → Part → Prop := Relation.ReflTransGen Part.WorkStep

section works
variable {d e t : Part}

theorem Part.Works.refl (d : Part) : d.Works d := Relation.ReflTransGen.refl
theorem Part.Works.trans (h : d.Works e) (h' : e.Works t) : d.Works t := Relation.ReflTransGen.trans h h'
theorem Part.WorkStep.works (h : d.WorkStep t) : d.Works t := Relation.ReflTransGen.single h

theorem Part.Works.keeps {P : Part → Prop} (h : d.Works t) (hstep : ∀ d t, Part.WorkStep d t → P d → P t) (hd : P d) : P t := by
  induction h with
  | refl => exact hd
  | tail _ hlast ih => exact hstep _ _ hlast ih

theorem Part.Acts.works {g : GroupNo} (h : Part.Acts g d t) : d.Works t :=
  h.keeps (P := d.Works) (fun _ _ hstep hd => hd.trans (WorkStep.act hstep).works) (.refl d)

theorem each_works {α : Type} {f : α → Part → Part} (hf : ∀ a d, Part.Works d (f a d)) (l : List α) (d : Part) :
    d.Works (Part.each f l d) :=
  each_rel Part.Works f .refl (fun _ _ _ => .trans) hf l d

variable (d) (g : GroupNo) (p : PortNo) (c : CtlNo)

theorem modGroup_works (f : GroupRec → GroupRec) : d.Works (d.modGroup g f) := (Part.WorkStep.group d g f).works
theorem notify_works (rc : CtlNo → Bool) (n : Notice) : d.Works (d.notify rc n) := (Part.WorkStep.tell d rc n).works

theorem bumpRevision_works (cause : LayoutCause) : d.Works (d.bumpRevision g cause) :=
  ((modGroup_works d g _).trans (Part.Acts.refreshDissolve _ g).works).trans (notify_works _ _ _)

theorem leaveGroup_works : d.Works (d.leaveGroup g p) := (modGroup_works d g _).trans (Part.Acts.reportRemoval _ g p).works

theorem joinGroup_works : d.Works (d.joinGroup g p) := (modGroup_works d g _).trans (Part.Acts.reportJoin _ g p).works

theorem removeAll_works : d.Works (d.removeAll g) := (modGroup_works d g _).trans (Part.Acts.removeMembers _ g _).works

theorem moveOut_works (o : Option GroupNo) : d.Works (d.moveOut p o) := by
  unfold Part.moveOut
  cases o with
  | none => exact .refl d
  | some o => exact (leaveGroup_works d o p).trans (bumpRevision_works _ o .moved)

theorem groupAdd_works : d.Works (d.groupAdd g p) :=
  ((moveOut_works d p _).trans (joinGroup_works _ g p)).trans (bumpRevision_works _ g .request)

theorem groupRemove_works : d.Works (d.groupRemove g p) := (leaveGroup_works d g p).trans (bumpRevision_works _ g .request)

theorem groupSet_works (s : GroupSettings) : d.Works (d.groupSet g s) :=
  (modGroup_works d g _).trans (bumpRevision_works _ g .request)

theorem groupDisband_works : d.Works (d.groupDisband g) :=
  ((modGroup_works d g _).trans (removeAll_works _ g)).trans (bumpRevision_works _ g .request)

theorem dissolveExpiry_works : d.Works (d.dissolveExpiry g) := by
  unfold Part.dissolveExpiry
  split
  · exact (removeAll_works d g).trans (bumpRevision_works _ g .dissolve)
  · exact .refl d

theorem beginHold_works : d.Works (d.beginHold c g) := (modGroup_works d g _).trans (Part.Acts.refreshDissolve _ g).works

theorem endHold_works : d.Works (d.endHold g) := (modGroup_works d g _).trans (Part.Acts.refreshDissolve _ g).works

theorem holdExpiry_works : d.Works (d.holdExpiry g) := by
  unfold Part.holdExpiry
  split
  · split
    · exact .refl d
    · exact (endHold_works d g).trans (notify_works _ _ _)
  · exact .refl d

theorem endHolds_works : d.Works (Part.each (Part.endHoldOf c) (List.finRange 12) d) := by
  refine each_works (fun g d => ?_) _ d
  unfold Part.endHoldOf
  split
  · exact endHold_works d g
  · exact .refl d

theorem endConsole_works : d.Works (d.endConsole c) := by
  obtain ⟨g, hg⟩ := acts_endConsole d c
  exact hg.works

/-- The operation of the store, with its response unwanted where it is controller `c`'s. -/
def Part.disown (c : CtlNo) (d : Part) : Part := { d with storeOp := d.storeOp.map (StoreOp.unwanted c) }

/-- A controller port reset changes the port, then the groups, floors and consoles, then the pending operation, then tells of it. -/
theorem controllerPortReset_works :
    ∃ e, (d.modCtl c CtlPort.portReset).Works e ∧ (e.disown c).Works (d.controllerPortReset c) := by
  unfold Part.controllerPortReset
  dsimp only
  generalize (d.ctl c).attached = was
  generalize d.modCtl c CtlPort.portReset = e
  refine ⟨((Part.each (Part.endHoldOf c) (List.finRange 12) e).endConsole c).modConsole c
    fun r => { r with involvement := .none, monitor := [] }, ?_, ?_⟩
  · exact ((endHolds_works e c).trans (endConsole_works _ c)).trans (Part.WorkStep.console _ c _).works
  · generalize ((Part.each (Part.endHoldOf c) (List.finRange 12) e).endConsole c).modConsole c
      (fun r => { r with involvement := .none, monitor := [] }) = e
    split
    · exact notify_works _ _ _
    · exact .refl _

theorem attach_works (mode : AttnMode) (pol : Polarity) :
    (d.modCtl c fun q => { q with attached := true, mode := mode, polarity := pol }).Works (d.attach c mode pol) := by
  unfold Part.attach
  dsimp only
  split
  · exact .refl _
  · exact notify_works _ _ _

theorem leaveGroupAll_works (ps : List PortNo) : d.Works (d.leaveGroupAll g ps) := each_works (fun p d => leaveGroup_works d g p) ps d

theorem recallApply_works (pre : Preset) : d.Works (d.recallApply pre) := by
  have hclear (g : GroupNo) (d : Part) : d.Works (d.recallClear g) := (Part.Acts.clearFloor d g _ _).works
  have hlose (g : GroupNo) (d : Part) : d.Works (d.recallLose pre g) :=
    (leaveGroupAll_works d g _).trans (bumpRevision_works _ g .recall)
  have htrim (e : GroupEntry) (d : Part) : d.Works (d.recallTrim e) := leaveGroupAll_works d e.group _
  have hwrite (e : GroupEntry) (d : Part) : d.Works (d.recallWrite e) := by
    refine .trans ?_ (bumpRevision_works _ e.group .recall)
    exact (modGroup_works d e.group _).trans (recallJoined_acts e d).works
  exact ((each_works hclear _ d).trans (each_works hlose _ _)).trans ((each_works htrim _ _).trans (each_works hwrite _ _))

end works

/-! The invariant, as a statement about one port and one about the store. -/

/-- The port's record is sound, its peak in range, and it is absent while the start-up load runs. -/
def Part.PortSound (d : Part) (p : PortNo) : Prop :=
  (d.port p).Sound ∧ tget d.peaks p ≤ 32767 ∧ (d.loading = true → (d.port p).Absent)

/-- The settings in the store, and those on their way to it, are legal (R117, R121). -/
def Part.SettingsStored (d : Part) : Prop :=
  (∀ es p, d.portsRecord = some es → (tget es p).legal = true) ∧
    ∀ op es, d.storeOp = some op → op.kind = .portsStore es → d.portsRecord = none ∧ ∀ p, (tget es p).legal = true

theorem portsSound_iff (d : Part) : d.PortsSound ↔ (∀ p, d.PortSound p) ∧ d.blockFrames ≤ 80 ∧ d.SettingsStored := by
  refine and_congr (forall_congr' fun p => ?_) Iff.rfl
  constructor
  · rintro ⟨hlegal, hquiet, htransmit, hcarrier, hcooldown, hdown, hup, hstopped, hrestarting, hemergency, hlink, hrun, hlevel, hpeak,
      habsent⟩
    exact ⟨⟨⟨hlegal, hstopped, hrestarting, hemergency, hlink, hrun, hlevel⟩, ⟨htransmit, hcarrier, hcooldown, hdown, hup⟩, hquiet⟩,
      hpeak, habsent⟩
  · rintro ⟨h, hpeak, habsent⟩
    exact ⟨h.legal, h.quiet, h.transmit, h.toInState.carrier, h.cooldown, h.down, h.up, h.stopped, h.restarting, h.emergency, h.link,
      h.run, h.level, hpeak, habsent⟩

section keep
variable {d t : Part}

/-- What is said of the store reads the record and the operation's kind. -/
theorem Part.SettingsStored.of_same (h : d.SettingsStored) (hrecord : t.portsRecord = d.portsRecord)
    (hkind : t.storeOp.map StoreOp.kind = d.storeOp.map StoreOp.kind) : t.SettingsStored := by
  refine ⟨fun es p hes => h.1 es p (hrecord ▸ hes), fun op es hop hk => ?_⟩
  rw [hop] at hkind
  obtain ⟨op', hop', hk'⟩ := Option.map_eq_some_iff.1 hkind.symm
  rw [hrecord]
  exact h.2 op' es hop' (hk'.trans hk)

/-- The invariant goes on where each port record, its peak, the block, the record in the store and the operation's kind stay. -/
theorem Part.PortsSound.of_same (h : d.PortsSound) (hport : ∀ p, t.port p = d.port p) (hpeaks : t.peaks = d.peaks)
    (hblock : t.blockFrames = d.blockFrames) (hrecord : t.portsRecord = d.portsRecord)
    (hkind : t.storeOp.map StoreOp.kind = d.storeOp.map StoreOp.kind) : t.PortsSound := by
  rw [portsSound_iff] at h ⊢
  obtain ⟨hports, hframes, hstore⟩ := h
  refine ⟨fun p => ?_, by rwa [hblock], hstore.of_same hrecord hkind⟩
  unfold Part.PortSound
  rw [hport, hpeaks, loading_congr hkind]
  exact hports p

/-- A change of one port record that keeps it sound, and absent while the start-up load runs. -/
theorem Part.PortsSound.modPort (h : d.PortsSound) (p : PortNo) {f : PortRec → PortRec} (hsound : (f (d.port p)).Sound)
    (habsent : d.loading = true → (d.port p).Absent → (f (d.port p)).Absent) : (d.modPort p f).PortsSound := by
  rw [portsSound_iff] at h ⊢
  obtain ⟨hports, hframes, hstore⟩ := h
  refine ⟨fun q => ?_, hframes, hstore⟩
  unfold Part.PortSound
  rw [modPort_port]
  split
  · next hq =>
    subst hq
    obtain ⟨-, hpeak, habs⟩ := hports q
    exact ⟨hsound, hpeak, fun hl => habsent hl (habs hl)⟩
  · exact hports q

theorem unwanted_kind (c : CtlNo) (o : Option StoreOp) : (o.map (StoreOp.unwanted c)).map StoreOp.kind = o.map StoreOp.kind := by
  rw [Option.map_map]
  congr 1
  funext op
  unfold Function.comp StoreOp.unwanted
  split <;> rfl

theorem Part.ActStep.portsSound {g : GroupNo} (hstep : Part.ActStep g d t) (h : d.PortsSound) : t.PortsSound := by
  cases hstep with
  | order p hf =>
    refine h.modPort p (hf.sound (((portsSound_iff d).1 h).1 p).1) fun _ habsent => hf.absent habsent
  | floor k => exact h.of_same (fun _ => rfl) rfl rfl rfl rfl
  | tell rc n _ => exact h.of_same (fun _ => rfl) rfl rfl rfl rfl
  | involve src i => cases src <;> exact h.of_same (fun _ => rfl) rfl rfl rfl rfl
  | refresh => exact h.of_same (fun _ => rfl) rfl rfl rfl rfl

theorem Part.WorkStep.portsSound (hstep : Part.WorkStep d t) (h : d.PortsSound) : t.PortsSound := by
  cases hstep with
  | act hact => exact hact.portsSound h
  | group => exact h.of_same (fun _ => rfl) rfl rfl rfl rfl
  | tell => exact h.of_same (fun _ => rfl) rfl rfl rfl rfl
  | console => exact h.of_same (fun _ => rfl) rfl rfl rfl rfl

theorem Part.Works.portsSound (hworks : d.Works t) (h : d.PortsSound) : t.PortsSound :=
  hworks.keeps (fun _ _ hstep hd => hstep.portsSound hd) h

theorem modCtl_portsSound (c : CtlNo) (f : CtlPort → CtlPort) (h : d.PortsSound) : (d.modCtl c f).PortsSound :=
  h.of_same (fun _ => rfl) rfl rfl rfl rfl

theorem disown_portsSound (c : CtlNo) (h : d.PortsSound) : (d.disown c).PortsSound :=
  h.of_same (fun _ => rfl) rfl rfl rfl (unwanted_kind c _)

theorem controllerPortReset_portsSound (c : CtlNo) (h : d.PortsSound) : (d.controllerPortReset c).PortsSound := by
  obtain ⟨e, hbefore, hafter⟩ := controllerPortReset_works d c
  exact hafter.portsSound (disown_portsSound c (hbefore.portsSound (modCtl_portsSound c _ h)))

theorem Part.RadioActs.portsSound {p : PortNo} (hradio : d.RadioActs p t) (h : d.PortsSound) : t.PortsSound := by
  refine hradio.keeps h (fun f hf hd => ?_) fun _ _ _ hstep hd => hstep.portsSound hd
  exact hd.modPort p (hf.sound (((portsSound_iff d).1 hd).1 p).1) fun hl habsent => (hl ▸ hf).absent habsent

end keep

end Sys2Proof.Machine
end

section
/-!
PROOFS. Every step keeps the radio-port invariant (O57). A frame first takes the events that are due, and each of them clears the
count that made it due; so no count passes its length.
-/

namespace Sys2Proof.Machine

/-! No count grows but in a frame. -/

section nearer
variable {d t : Part} {p : PortNo}

theorem modPort_noNearer {f : PortRec → PortRec} (hf : (d.port p).NoNearer (f (d.port p))) (q : PortNo) :
    (d.port q).NoNearer ((d.modPort p f).port q) := by
  rw [modPort_port]
  split
  · next hq => exact hq ▸ hf
  · exact .refl _

theorem Part.Acts.noNearer {g : GroupNo} (h : Part.Acts g d t) (q : PortNo) : (d.port q).NoNearer (t.port q) := by
  refine h.keeps (P := fun e => (d.port q).NoNearer (e.port q)) (fun e t hstep he => he.trans ?_) (.refl _)
  cases hstep with
  | order p hf => exact modPort_noNearer (hf.noNearer _) q
  | floor k => exact .refl _
  | tell rc n _ => exact .refl _
  | involve src i => cases src <;> exact .refl _
  | refresh => exact .refl _

theorem Part.RadioActs.noNearer (h : d.RadioActs p t) (q : PortNo) : (d.port q).NoNearer (t.port q) := by
  rcases h.acts with rfl | ⟨f, hf, g, hg⟩
  · exact .refl _
  · exact (modPort_noNearer hf.noNearer q).trans (hg.noNearer q)

theorem Part.RadioActs.loading_eq (h : d.RadioActs p t) : t.loading = d.loading := by
  obtain ⟨-, -, -, hkind, -⟩ := h.layoutSame
  exact loading_congr hkind

theorem Part.RadioActs.notDue (h : d.RadioActs p t) {q : PortNo} (hd : (d.port q).NotDue d.loading) : (t.port q).NotDue t.loading := by
  have hnear := h.noNearer q
  rw [h.loading_eq]
  exact ⟨hnear.emergency_lt hd.emergency, hd.link.imp_right hnear.link_lt, hnear.run_lt hd.run⟩

end nearer

/-! The events of one port take what is due at it. -/

section due
variable (d : Part) (p : PortNo)

theorem emergency_lt_of_events : (((d.emergencyAsserted p).emergencyReleased p).port p).emergencyCount < 160 := by
  have hasserted : ((d.emergencyAsserted p).port p).emergencyCount < 160 ∨ ((d.emergencyAsserted p).port p).emergency = true := by
    unfold Part.emergencyAsserted
    split
    · obtain ⟨g, hg⟩ := acts_emergencyRaised (d.modPort p fun r => { r with emergency := true, emergencyCount := 0 }) p
      refine .inl ((hg.noNearer p).emergency_lt ?_)
      rw [modPort_port, if_pos rfl]
      exact Nat.zero_lt_succ _
    · next hnot =>
      rw [Bool.and_eq_true, Bool.not_eq_true', emergencyDue_iff] at hnot
      cases he : (d.port p).emergency with
      | true => exact .inr rfl
      | false => exact .inl (not_le.1 fun hdue => hnot ⟨he, hdue⟩)
  generalize d.emergencyAsserted p = e at hasserted
  unfold Part.emergencyReleased
  split
  · rw [modPort_port, if_pos rfl]
    exact Nat.zero_lt_succ _
  · next hnot =>
    rw [Bool.and_eq_true, emergencyDue_iff] at hnot
    exact hasserted.elim id fun hon => not_le.1 fun hdue => hnot ⟨hon, hdue⟩

theorem loseLink_link (r : PortRec) : r.loseLink.linkUp = false ∧ r.loseLink.linkCount = 0 := by
  unfold PortRec.loseLink PortRec.startRestart
  dsimp only
  rw [goTo_fields]
  repeat' split
  all_goals exact ⟨rfl, rfl⟩

theorem link_lt_of_events (hload : d.loading = false) :
    ((((d.linkLoss p).linkReturn p).port p).linkCount <
      if (((d.linkLoss p).linkReturn p).port p).linkUp = true then 160 else 100) := by
  have hlost : ((d.linkLoss p).port p).linkCount < (if ((d.linkLoss p).port p).linkUp = true then 160 else 100) ∨
      ((d.linkLoss p).port p).linkUp = false := by
    unfold Part.linkLoss
    split
    · obtain ⟨g, hg⟩ := acts_reportLoss ((d.modPort p PortRec.loseLink).portNotice p .linkDown) p (d.port p).state
      refine .inl (((((Part.Acts.portNotice _ p _).trans hg).noNearer p)).link_lt ?_)
      rw [modPort_port, if_pos rfl, (loseLink_link _).2]
      split <;> decide
    · next hnot =>
      rw [Bool.and_eq_true, Bool.and_eq_true, Bool.not_eq_true'] at hnot
      cases hup : (d.port p).linkUp with
      | false => exact .inr rfl
      | true =>
        rw [if_pos rfl]
        exact .inl (not_le.1 fun hdue => hnot ⟨⟨hup, (linkDue_up_iff hup).2 hdue⟩, hload⟩)
  have hload' : (d.linkLoss p).loading = false := (linkLoss_acts d p).loading_eq.trans hload
  generalize d.linkLoss p = e at hlost hload'
  unfold Part.linkReturn
  split
  · refine ((Part.Acts.portNotice (g := 0) _ p _).noNearer p).link_lt ?_
    rw [modPort_port, if_pos rfl]
    have hcount : ((e.port p).returnLink (e.floorTest p)).linkCount = 0 := by
      unfold PortRec.returnLink
      dsimp only
      rw [goTo_fields]
      split <;> rfl
    rw [hcount]
    split <;> decide
  · next hnot =>
    rw [Bool.and_eq_true, Bool.and_eq_true, Bool.not_eq_true', Bool.not_eq_true'] at hnot
    by_cases hup : (e.port p).linkUp = true
    · exact hlost.resolve_right (by rw [hup]; nofun)
    · have hdown := Bool.eq_false_iff.2 hup
      rw [if_neg hup]
      exact not_le.1 fun hdue => hnot ⟨⟨hdown, (linkDue_down_iff hdown).2 hdue⟩, hload'⟩

theorem run_lt_of_events (hsound : (d.port p).Sound) :
    (((d.carrierYes p).carrierNo p).port p).runCount = 0 ∨
      (((d.carrierYes p).carrierNo p).port p).runCount < (((d.carrierYes p).carrierNo p).port p).runLength := by
  have hdue (r : PortRec) : r.runDue = true ∨ r.runCount = 0 ∨ r.runCount < r.runLength := by
    simp only [PortRec.runDue, Bool.and_eq_true, decide_eq_true_iff]
    omega
  have hyes : (((d.carrierYes p).port p).runCount = 0 ∨ ((d.carrierYes p).port p).runCount < ((d.carrierYes p).port p).runLength) ∨
      ((d.carrierYes p).port p).carrier = true := by
    unfold Part.carrierYes
    split
    · obtain ⟨g, hg⟩ := acts_claimIfMember ((d.modPort p fun r => { r with carrier := true, runCount := 0 }).carrierNotice p true) p
      refine .inl (((Part.Acts.carrierNotice _ p true).trans hg).noNearer p |>.run_lt (.inl ?_))
      rw [modPort_port, if_pos rfl]
    · next hnot =>
      simp only [Bool.and_eq_true, Bool.not_eq_true'] at hnot
      rcases hdue (d.port p) with hrun | hrun
      · cases hon : (d.port p).carrier with
        | true => exact .inr rfl
        | false =>
          have hsup : (d.port p).suppressed = true := by
            by_contra hopen
            exact hnot ⟨⟨Bool.eq_false_iff.2 hopen, hon⟩, hrun⟩
          exact .inl (.inl (hsound.quiet ((suppressed_iff _).1 hsup)).2)
      · exact .inl hrun
  generalize d.carrierYes p = e at hyes
  unfold Part.carrierNo
  split
  · obtain ⟨g, hg⟩ := acts_carrierDrop ((e.modPort p fun r => { r with carrier := false, runCount := 0 }).carrierNotice p false) p
    refine ((Part.Acts.carrierNotice _ p false).trans hg).noNearer p |>.run_lt (.inl ?_)
    rw [modPort_port, if_pos rfl]
  · next hnot =>
    rw [Bool.and_eq_true] at hnot
    rcases hyes with hyes | hon
    · exact hyes
    · exact (hdue (e.port p)).elim (fun hrun => absurd ⟨hon, hrun⟩ hnot) id

theorem portCatchUp_notDue {d : Part} (h : d.PortsSound) : ((d.portCatchUp p).port p).NotDue (d.portCatchUp p).loading := by
  have hemergency := emergency_lt_of_events d p
  have hasserted := emergencyAsserted_acts d p
  have hreleased := emergencyReleased_acts (d.emergencyAsserted p) p
  unfold Part.portCatchUp
  have hsound := hreleased.portsSound (hasserted.portsSound h)
  generalize (d.emergencyAsserted p).emergencyReleased p = a at *
  have hloss := linkLoss_acts a p
  have hreturn := linkReturn_acts (a.linkLoss p) p
  have hlink := link_lt_of_events a p
  have hload : ((a.linkLoss p).linkReturn p).loading = a.loading := hreturn.loading_eq.trans hloss.loading_eq
  have hemergency' := ((hloss.noNearer p).trans (hreturn.noNearer p)).emergency_lt hemergency
  have hsound' := hreturn.portsSound (hloss.portsSound hsound)
  generalize (a.linkLoss p).linkReturn p = b at *
  have hyes := carrierYes_acts b p
  have hno := carrierNo_acts (b.carrierYes p) p
  have hrun := run_lt_of_events b p (((portsSound_iff b).1 hsound').1 p).1
  have hnear := (hyes.noNearer p).trans (hno.noNearer p)
  refine ⟨hnear.emergency_lt hemergency', ?_, hrun⟩
  rw [hno.loading_eq, hyes.loading_eq, hload]
  cases ha : a.loading with
  | true => exact .inl rfl
  | false => exact .inr (hnear.link_lt (hlink ha))

end due

/-! One port after the other; what is taken at one stays taken. -/

theorem portCatchUp_portsSound (p : PortNo) {d : Part} (h : d.PortsSound) : (d.portCatchUp p).PortsSound :=
  portCatchUp_keeps (fun _ _ hradio hd => hradio.portsSound hd) h

theorem portCatchUp_keeps_notDue (p q : PortNo) {d : Part} (h : (d.port q).NotDue d.loading) :
    ((d.portCatchUp p).port q).NotDue (d.portCatchUp p).loading :=
  portCatchUp_keeps (P := fun d => (d.port q).NotDue d.loading) (fun _ _ hradio hd => hradio.notDue hd) h

theorem each_portCatchUp_notDue (ps : List PortNo) (q : PortNo) (d : Part) (hd : d.PortsSound)
    (h : q ∈ ps ∨ (d.port q).NotDue d.loading) :
    ((Part.each Part.portCatchUp ps d).port q).NotDue (Part.each Part.portCatchUp ps d).loading := by
  induction ps generalizing d with
  | nil => exact h.resolve_left List.not_mem_nil
  | cons p ps ih =>
    refine ih (d.portCatchUp p) (portCatchUp_portsSound p hd) ?_
    rcases h with h | h
    · rcases List.mem_cons.1 h with rfl | h
      · exact .inr (portCatchUp_notDue q hd)
      · exact .inl h
    · exact .inr (portCatchUp_keeps_notDue p q h)

theorem each_portCatchUp_portsSound (ps : List PortNo) (d : Part) (hd : d.PortsSound) :
    (Part.each Part.portCatchUp ps d).PortsSound := by
  induction ps generalizing d with
  | nil => exact hd
  | cons p ps ih => exact ih _ (portCatchUp_portsSound p hd)

/-! Level blocks. -/

theorem levelOf_le (peak : Nat) : levelOf peak ≤ 63 := by
  unfold levelOf
  repeat' split
  all_goals omega

theorem levelBlockEnd_loading (d : Part) : d.levelBlockEnd.loading = d.loading := by
  obtain ⟨-, -, -, hkind, -⟩ := layoutSame_levelBlockEnd d
  exact loading_congr hkind

theorem setLevel_sound {r : PortRec} (h : r.Sound) {level : Nat} (hlevel : level ≤ 63) : (r.setLevel level).Sound := { h with level := hlevel }

theorem levelled_rest (d : Part) :
    d.levelled.blockFrames = 0 ∧ d.levelled.portsRecord = d.portsRecord ∧ d.levelled.storeOp = d.storeOp ∧
      d.levelled.ctls = d.ctls ∧ d.levelled.groups = d.groups ∧ d.levelled.floors = d.floors ∧ d.levelled.consoles = d.consoles := by
  unfold Part.levelled
  exact ⟨rfl, rfl, rfl, rfl, rfl, rfl, rfl⟩

theorem levelBlockEnd_portsSound {d : Part} (h : d.PortsSound) : d.levelBlockEnd.PortsSound := by
  rcases Nat.lt_or_ge d.blockFrames 80 with hblock | hblock
  · rwa [levelBlockEnd_of_not_due hblock]
  · have hload := levelBlockEnd_loading d
    rw [levelBlockEnd_of_due hblock] at hload ⊢
    rw [portsSound_iff] at h ⊢
    obtain ⟨hports, -, hstore⟩ := h
    obtain ⟨hframes, hrecord, hop, -⟩ := levelled_rest d
    refine ⟨fun p => ?_, hframes.trans_le (Nat.zero_le 80), hstore.of_same hrecord (congrArg _ hop)⟩
    obtain ⟨hsound, -, habsent⟩ := hports p
    unfold Part.PortSound
    rw [levelled_port, hload]
    have hpeaks : tget d.levelled.peaks p = 0 := tget_replicate (n := 24) 0 p
    rw [hpeaks]
    exact ⟨setLevel_sound hsound (levelOf_le _), Nat.zero_le _, habsent⟩

theorem levelBlockEnd_blockFrames (d : Part) : d.levelBlockEnd.blockFrames < 80 := by
  rcases Nat.lt_or_ge d.blockFrames 80 with hblock | hblock
  · rwa [levelBlockEnd_of_not_due hblock]
  · rw [levelBlockEnd_of_due hblock]
    exact Nat.zero_lt_succ _

theorem levelBlockEnd_notDue {d : Part} {q : PortNo} (h : (d.port q).NotDue d.loading) :
    (d.levelBlockEnd.port q).NotDue d.levelBlockEnd.loading := by
  rw [levelBlockEnd_loading]
  rcases Nat.lt_or_ge d.blockFrames 80 with hblock | hblock
  · rwa [levelBlockEnd_of_not_due hblock]
  · rw [levelBlockEnd_of_due hblock, levelled_port]
    exact ⟨h.emergency, h.link, h.run⟩

/-! A frame. -/

theorem monitorLink_sound {r : PortRec} (valid : Bool) (h : r.Sound) (hdue : r.linkCount < if r.linkUp = true then 160 else 100) :
    (r.monitorLink valid).Sound := by
  refine { h with link := ?_ }
  unfold PortRec.monitorLink
  dsimp only
  cases hup : r.linkUp <;> cases valid <;> simp only [hup, Bool.false_eq_true, if_true, if_false] at hdue ⊢ <;> omega

theorem debounce_sound {r : PortRec} (high : Bool) (h : r.Sound) (hdue : r.emergencyCount < 160) : (r.debounce high).Sound := by
  refine { h with emergency := ?_ }
  unfold PortRec.debounce
  dsimp only
  split <;> omega

/-- A run that is not due grows by one frame; under suppression there is none. -/
theorem filterFrame_sound {r : PortRec} (high : Bool) (h : r.Sound) (hdue : r.runCount = 0 ∨ r.runCount < r.runLength) :
    (r.filterFrame high).Sound := by
  unfold PortRec.filterFrame
  split
  · exact { h with run := Nat.zero_le _, quiet := fun hs => ⟨(h.quiet hs).1, rfl⟩ }
  · next hopen =>
    have hrunTime : 1 ≤ r.runTime := Nat.le_max_left _ _
    refine { h with run := ?_, quiet := fun hs => absurd (.inl ((suppressed_iff r).2 hs)) hopen }
    dsimp only
    split <;> omega

theorem tickTimer_eq_none (t : Timer) : tickTimer t = none ↔ t = none := Option.map_eq_none_iff

theorem tick_suppressed (r : PortRec) : r.tick.Suppressed ↔ r.Suppressed := by
  rw [← suppressed_iff, ← suppressed_iff]
  unfold PortRec.suppressed PortRec.guardActive PortRec.tick tickTimer
  rw [Option.isSome_map]

theorem tick_sound {r : PortRec} (h : r.Sound) : r.tick.Sound where
  toFramed := { h.toFramed with stopped := h.stopped.trans (tickTimer_eq_none _).symm }
  transmit hst := (tickTimer_eq_none _).2 (h.transmit hst)
  carrier hst := (tickTimer_eq_none _).2 (h.toInState.carrier hst)
  cooldown := (not_congr (tickTimer_eq_none _)).trans h.cooldown
  down := h.down
  up := h.up
  quiet hs := h.quiet ((tick_suppressed r).1 hs)

theorem frameOf_sound {loading : Bool} {r : PortRec} (rx : RxSlot) (h : r.Sound) (hdue : r.NotDue loading) :
    (r.frame loading rx).Sound := by
  unfold PortRec.frame
  refine tick_sound (filterFrame_sound _ (debounce_sound _ ?_ ?_) ?_)
  · split
    · exact h
    · next hload => exact monitorLink_sound _ h (hdue.link.resolve_left hload)
  · split <;> exact hdue.emergency
  · split <;> exact hdue.run

theorem filterFrame_place (high : Bool) (r : PortRec) : (r.filterFrame high).linkUp = r.linkUp ∧ (r.filterFrame high).state = r.state := by
  unfold PortRec.filterFrame
  split <;> exact ⟨rfl, rfl⟩

theorem frameOf_place (rx : RxSlot) (loading : Bool) (r : PortRec) :
    (r.frame loading rx).linkUp = r.linkUp ∧ (r.frame loading rx).state = r.state := by
  unfold PortRec.frame
  dsimp only
  obtain ⟨hup, hst⟩ := filterFrame_place rx.carrierHigh ((if loading = true then r else r.monitorLink rx.valid).debounce rx.emergencyHigh)
  refine ⟨hup.trans ?_, hst.trans ?_⟩ <;> split <;> rfl

theorem frameOf_absent {r : PortRec} (rx : RxSlot) (loading : Bool) (h : r.Absent) : (r.frame loading rx).Absent := by
  obtain ⟨hup, hst⟩ := frameOf_place rx loading r
  exact ⟨hup.trans h.1, hst.trans h.2⟩

theorem frame_loading (rx : Vector RxSlot 24) (mics : Vector Sample 6) (d : Part) : (d.frame rx mics).loading = d.loading := by
  obtain ⟨-, -, -, hkind, -⟩ := layoutSame_frame d rx mics
  exact loading_congr hkind

theorem magnitude_le (x : Sample) : magnitude x ≤ 32767 := Nat.min_le_right _ _

theorem frame_portsSound (rx : Vector RxSlot 24) (mics : Vector Sample 6) {d : Part} (h : d.PortsSound) (hblock : d.blockFrames < 80)
    (hdue : ∀ p, (d.port p).NotDue d.loading) : (d.frame rx mics).PortsSound := by
  rw [portsSound_iff] at h ⊢
  obtain ⟨hports, -, hstore⟩ := h
  have hframes : (d.frame rx mics).blockFrames = d.blockFrames + 1 := rfl
  refine ⟨fun p => ?_, hframes.trans_le hblock, hstore.of_same (frame_rest rx mics d).2.2.2 ?_⟩
  · obtain ⟨hsound, hpeak, habsent⟩ := hports p
    unfold Part.PortSound
    rw [frame_port, frame_loading]
    refine ⟨frameOf_sound _ hsound (hdue p), ?_, fun hl => frameOf_absent _ _ (habsent hl)⟩
    rw [frame_peaks]
    exact max_le hpeak (magnitude_le _)
  · rw [frame_storeOp, Option.map_map]
    rfl

theorem tdmFrame_portsSound (rx : Vector RxSlot 24) (mics : Vector Sample 6) {d : Part} (h : d.PortsSound) :
    (d.tdmFrame rx mics).PortsSound := by
  unfold Part.tdmFrame Part.catchUp
  have hsound := each_portCatchUp_portsSound (List.finRange 24) d h
  have hdue (q : PortNo) := each_portCatchUp_notDue (List.finRange 24) q d h (.inl (List.mem_finRange q))
  exact frame_portsSound rx mics (levelBlockEnd_portsSound hsound) (levelBlockEnd_blockFrames _) fun q => levelBlockEnd_notDue (hdue q)

/-! Reset, the load and the store. -/

theorem deviceReset_portsSound {d : Part} (h : d.PortsSound) : d.deviceReset.PortsSound := by
  have hreset := (portsSound_iff _).1 portsSound_reset
  obtain ⟨-, -, hstored, -⟩ := h
  refine (portsSound_iff _).2 ⟨hreset.1, hreset.2.1, hstored, ?_⟩
  rintro op es hop hk
  injection hop with hop
  subst hop
  exact nomatch hk

/-- With the store idle only the record in it counts. -/
theorem portsSound_of_idle {d t : Part} (h : d.PortsSound) (hports : ∀ p, (t.port p).Sound) (hpeaks : t.peaks = d.peaks)
    (hblock : t.blockFrames = d.blockFrames) (hrecord : t.portsRecord = d.portsRecord) (hidle : t.storeOp = none) : t.PortsSound := by
  rw [portsSound_iff] at h ⊢
  obtain ⟨hsound, hframes, hstored, -⟩ := h
  refine ⟨fun p => ⟨hports p, by rw [hpeaks]; exact (hsound p).2.1, fun hl => ?_⟩, by rwa [hblock], by rwa [hrecord], fun op es hop => ?_⟩
  · rw [loading_iff, hidle] at hl
    exact nomatch hl
  · rw [hidle] at hop
    exact nomatch hop

theorem load_sound {r : PortRec} {s : PortSettings} (h : r.Sound) (hr : r.Absent) (hs : s.legal = true) : (r.load s).Sound := by
  have hset : ({ r with settings := s } : PortRec).Sound :=
    { h with
      legal := hs
      quiet := fun _ => h.quiet (.inr (.inr (.inr (.inl hr.2)))) }
  unfold PortRec.load
  dsimp only
  split
  · exact startRestart_sound hset hr.1
  · exact hset

theorem loadPorts_sound {d : Part} (h : d.PortsSound) (hload : d.loading = true) (p : PortNo) : (d.loadPorts.port p).Sound := by
  rw [portsSound_iff] at h
  obtain ⟨hports, -, hstored, -⟩ := h
  unfold Part.loadPorts
  cases hrecord : d.portsRecord with
  | none => exact (hports p).1
  | some es =>
    have hport : tget (tmap (fun p r => PortRec.load (tget es p) r) d.ports) p = (d.port p).load (tget es p) := tget_tmap ..
    refine (congrArg PortRec.Sound hport).mpr ?_
    exact load_sound (hports p).1 ((hports p).2.2 hload) (hstored es p hrecord)

theorem loadDone_portsSound {d : Part} (h : d.PortsSound) : d.loadDone.PortsSound := by
  unfold Part.loadDone
  split
  · next hload =>
    refine portsSound_of_idle (t := d.loadPorts.loadPreset.storeIdle) h (fun p => ?_) ?_ ?_ ?_ rfl
    · have hport : d.loadPorts.loadPreset.storeIdle.port p = d.loadPorts.port p := by
        rw [Part.storeIdle, loadPreset_fields]
        rfl
      rw [hport]
      exact loadPorts_sound h hload p
    all_goals
      rw [Part.storeIdle, loadPreset_fields, loadPorts_fields]
  · exact h

theorem prepares_portsSound {d e : Part} {kind : StoreKind} (h : d.PortsSound) (hprep : d.Prepares e kind) (c : CtlNo) (tag : Byte)
    (time : Nat) : (e.startOp c tag kind time).part.PortsSound := by
  have hkind : ¬ (e.startOp c tag kind time).part.loading = true := by
    rw [loading_iff, startOp_storeOp]
    exact fun hl => hprep.kind_ne_load (by simpa using hl)
  rw [portsSound_iff] at h ⊢
  obtain ⟨hports, hframes, hstored, -⟩ := h
  have hrest : (∀ p, e.port p = d.port p) ∧ e.peaks = d.peaks ∧ e.blockFrames = d.blockFrames ∧
      (e.portsRecord = d.portsRecord ∨ e.portsRecord = none) := by
    cases hprep <;> exact ⟨fun _ => rfl, rfl, rfl, by simp [Part.setSlot]⟩
  obtain ⟨hport, hpeaks, hblock, hrecord⟩ := hrest
  refine ⟨fun p => ⟨?_, ?_, fun hl => absurd hl hkind⟩, ?_, ?_, ?_⟩
  · exact (congrArg PortRec.Sound (hport p)).mpr (hports p).1
  · exact (congrArg (fun v => tget v p ≤ 32767) hpeaks).mpr (hports p).2.1
  · exact hblock.trans_le hframes
  · intro es p hes
    rcases hrecord with hrecord | hrecord
    · exact hstored es p (hrecord ▸ hes)
    · exact nomatch hrecord.symm.trans hes
  · rintro op es hop hk
    injection hop with hop
    subst hop
    cases hprep with
    | portsStore =>
      injection hk with hes
      subst hes
      refine ⟨rfl, fun p => ?_⟩
      have hentry : tget d.portEntries p = (d.port p).settings := tget_tmap ..
      rw [hentry]
      exact (hports p).1.legal
    | presetStore | presetErase | presetRead | presetRecall => exact nomatch hk

theorem Part.Completes.portsSound {d e : Part} {op : StoreOp} (hdone : d.Completes op e) (hop : d.storeOp = some op)
    (h : d.PortsSound) : e.PortsSound := by
  have hports (p : PortNo) : (d.port p).Sound := (((portsSound_iff d).1 h).1 p).1
  have hidle : ({ d with storeOp := none } : Part).PortsSound := portsSound_of_idle (t := { d with storeOp := none }) h hports rfl rfl rfl rfl
  cases hdone with
  | @presetStore slot pre hk => exact portsSound_of_idle h hports rfl rfl rfl rfl
  | @portsStore record hk =>
    obtain ⟨hsound, hframes, -, hpending⟩ := (portsSound_iff _).1 hidle
    refine (portsSound_iff _).2 ⟨hsound, hframes, ?_, nofun⟩
    intro es p hes
    injection hes with hes
    subst hes
    exact (((portsSound_iff d).1 h).2.2.2 op record hop hk).2 p
  | nothing hk => exact hidle
  | @recalled slot pre hk hpre hheld => exact (recallApply_works _ pre).portsSound hidle

theorem Part.StoreCompletes.portsSound {d t : Part} (hdone : d.StoreCompletes t) (h : d.PortsSound) : t.PortsSound := by
  rcases hdone with rfl | ⟨op, e, hop, hcompletes, kind, st, data, rfl⟩
  · exact h
  · have he := hcompletes.portsSound hop h
    rcases answersFor_cases e op kind st data with h | ⟨c, f, h⟩
    · rwa [h]
    · rw [h]
      exact modCtl_portsSound c f he

/-! The requests and the instructions. -/

theorem Part.CarriesOut.portsSound {c : CtlNo} {k : ReqKind} {d t : Part} (h : Part.CarriesOut c k d t) (hd : d.PortsSound) :
    t.PortsSound := by
  cases h with
  | nothing => exact hd
  | attach _ mode pol => exact (attach_works d c mode pol).portsSound (modCtl_portsSound c _ hd)
  | detach => exact modCtl_portsSound c _ (controllerPortReset_portsSound c hd)
  | noticeMask _ ks => exact modCtl_portsSound c _ hd
  | groupAdd _ g p hp => exact (groupAdd_works d g p).portsSound hd
  | groupRemove _ g p hp => exact (groupRemove_works d g p).portsSound hd
  | groupSet _ g hs => exact (groupSet_works d g _).portsSound hd
  | groupDisband _ g => exact (groupDisband_works d g).portsSound hd
  | @hold _ g hnone hone => exact (beginHold_works d g c).portsSound hd
  | release _ g => exact (endHold_works d g).portsSound hd
  | portSet _ p hs => exact (portSet_acts d p hs).portsSound hd
  | portClear _ hout => exact (portClear_acts d _ hout).portsSound hd
  | setOwner _ p owner => exact (setOwner_acts d p owner).portsSound hd
  | consoleSet _ cls gs => exact (Part.WorkStep.console d c _).works.portsSound hd
  | talkRequest _ em hformed hinv => exact (talkRequest_acts d _ c em).works.portsSound hd
  | talkStart _ hinv hst => exact (talkStart_acts d _).works.portsSound hd
  | talkEnd _ hinv hst => exact (Part.Acts.normalEnd d _).works.portsSound hd
  | leaveList _ hinv => exact (Part.Acts.leaveList d _ _).works.portsSound hd
  | lapseGrant _ hinv hst => exact (Part.Acts.lapseGrant d _ _).works.portsSound hd
  | clearFloor _ g => exact (Part.Acts.clearFloor d g _ _).works.portsSound hd

theorem portsSound_keptByTakes : Part.KeptByTakes Part.PortsSound where
  take c _ hd := modCtl_portsSound c _ hd
  respond c _ _ _ _ _ hd := modCtl_portsSound c _ hd
  renewed _ g d hd := (modGroup_works d g _).portsSound hd
  carriesOut h _ _ hd := h.portsSound hd
  starts c tag _ _ _ time _ h hd := prepares_portsSound hd h c tag time

theorem effect_portsSound (i : Instr) (d : Part) (hd : d.PortsSound) : (Instr.effect i d).PortsSound := by
  have hradio {t : Part} {p : PortNo} (h : d.RadioActs p t) : t.PortsSound := h.portsSound hd
  have hworks {t : Part} (h : d.Works t) : t.PortsSound := h.portsSound hd
  have hlink {t : Part} {c : CtlNo} (h : d.LinkActs c t) : t.PortsSound := by
    obtain ⟨f, -, rfl⟩ := h
    exact modCtl_portsSound c f hd
  cases i with
  | deviceReset => exact deviceReset_portsSound hd
  | startUpLoadCompletion => exact loadDone_portsSound hd
  | portResetAsserted c => exact controllerPortReset_portsSound c (modCtl_portsSound c _ hd)
  | portResetReleased c => exact modCtl_portsSound c _ hd
  | directionByte c part => exact hlink (directionByte_link c d part)
  | frameCompletion c bytes => exact hlink (frameCompletion_link c d bytes)
  | linkCycleEnd c => exact modCtl_portsSound c _ hd
  | removal c => exact hlink (removal_link c d)
  | unknownKind c => exact portsSound_keptByTakes.unknownKind c hd
  | presetStoreCompletion => exact (presetStoreDone_completes d).portsSound hd
  | portsStoreCompletion => exact (portsStoreDone_completes d).portsSound hd
  | presetEraseCompletion => exact (presetEraseDone_completes d).portsSound hd
  | presetReadCompletion => exact (presetReadDone_completes d).portsSound hd
  | presetRecallCompletion => exact (presetRecallDone_completes d).portsSound hd
  | emergencyStatusAsserted p => exact hradio (emergencyAsserted_acts d p)
  | emergencyStatusReleased p => exact hradio (emergencyReleased_acts d p)
  | linkLoss p => exact hradio (linkLoss_acts d p)
  | linkReturn p => exact hradio (linkReturn_acts d p)
  | restartTimerExpiry p => exact hradio (restartTimerExpiry_acts d p)
  | restartPulseEnd p => exact hradio (restartPulseEnd_acts d p)
  | guardEnd p => exact hradio (guardEnd_acts d p)
  | qualifiedCarrierYes p => exact hradio (carrierYes_acts d p)
  | qualifiedCarrierNo p => exact hradio (carrierNo_acts d p)
  | levelBlockEnd => exact levelBlockEnd_portsSound hd
  | tdmFrame rx mics => exact tdmFrame_portsSound rx mics hd
  | transmitLimitExpiry p => exact hradio (transmitLimitExpiry_acts d p)
  | carrierLimitExpiry p => exact hradio (carrierLimitExpiry_acts d p)
  | cooldownExpiry p => exact hradio (cooldownExpiry_acts d p)
  | hangTimerExpiry g => exact hworks (hangExpiry_acts d g).works
  | grantWindowExpiry g => exact hworks (windowExpiry_acts d g).works
  | preemptTimerExpiry g => exact hworks (preemptExpiry_acts d g).works
  | dissolveTimerExpiry g => exact hworks (dissolveExpiry_works d g)
  | holdTimerExpiry g => exact hworks (holdExpiry_works d g)
  | _ => exact portsSound_keptByTakes.serve _ _ hd

/-- Settles O57: every effect of a command keeps the ports sound. -/
theorem portsKept : Obligations.PortsKept := fun _ _ hs hstep => step_keeps effect_portsSound hs hstep

end Sys2Proof.Machine
end

section
/-!
PROOFS. The controller-port invariant (O55). What is said of one port is stated with the number of entries it reserves; a take adds
one, its response gives it back. All that is not an event of a link, a take or a completion only sends notices to the ports.
-/

namespace Sys2Proof.Machine

/-! One port. -/

/-- A sound controller port that reserves `n` entries of its queue. -/
structure CtlPort.Sound (n : Nat) (q : CtlPort) : Prop where
  buffer : q.buffer.length ≤ 2
  queue : q.outbound.length + q.reservations ≤ 16
  reserved : q.reservations = n
  frame : q.cycle ≠ .write → q.frame = none
  entry : q.cycle = .read true → q.outbound ≠ []
  mask : .lost ∈ q.mask
  held : q.resetLine = true → q.cycle = .closed ∨ q.cycle = .ignored

theorem CtlPort.Notified.sound {n : Nat} {q q' : CtlPort} (h : q.Notified q') (hq : q.Sound n) : q'.Sound n := by
  obtain ⟨⟨ns, hout, hroom⟩, -, -, hsame⟩ := h
  have hreserved : q'.reservations = q.reservations := by rw [hsame]
  refine ⟨?_, ?_, ?_, ?_, ?_, ?_, ?_⟩
  · rw [hsame]; exact hq.buffer
  · rcases hroom with rfl | ⟨-, hroom⟩
    · rw [hout, List.map_nil, List.append_nil, hreserved]; exact hq.queue
    · exact hroom
  · exact hreserved.trans hq.reserved
  · rw [hsame]; exact hq.frame
  · intro hread
    rw [hsame] at hread
    rw [hout]
    exact List.append_ne_nil_of_left_ne_nil (hq.entry hread) _
  · rw [hsame]; exact hq.mask
  · rw [hsame]; exact hq.held

theorem abandoned_cases (q : CtlPort) : q.abandoned = .closed ∨ q.abandoned = .ignored := by
  unfold CtlPort.abandoned
  split
  · exact .inl rfl
  · exact .inr rfl

theorem cycleAfterReset_not_read (q : CtlPort) : q.cycleAfterReset ≠ .read true := by
  unfold CtlPort.cycleAfterReset
  split
  · rcases abandoned_cases q with h | h <;> rw [h] <;> nofun
  · split
    · nofun
    · nofun
    · split <;> nofun
    all_goals nofun

theorem portReset_sound (q : CtlPort) : q.portReset.Sound 0 where
  buffer := Nat.zero_le _
  queue := Nat.zero_le _
  reserved := rfl
  frame _ := rfl
  entry h := absurd h (cycleAfterReset_not_read q)
  mask := show .lost ∈ defaultMask by decide
  held hline := by
    have hcycle : q.portReset.cycle = q.abandoned := if_pos hline
    rw [hcycle]
    exact abandoned_cases q

/-! Link events at one port. -/

section link
variable {n : Nat} {q : CtlPort}

theorem ignoreSelect_sound (h : q.Sound n) : q.ignoreSelect.Sound n := by
  unfold CtlPort.ignoreSelect
  split
  · next hclosed =>
    exact { h with frame := fun _ => h.frame (by rw [hclosed]; nofun), entry := nofun, held := fun _ => .inr rfl }
  · exact h

theorem direct_sound (code : Byte) (h : q.Sound n) (hline : q.resetLine = false) (hcycle : q.cycle ≠ .write) :
    (q.direct code).Sound n := by
  have hopen {P : Prop} : q.resetLine = true → P := fun hheld => absurd (hheld.symm.trans hline) nofun
  unfold CtlPort.direct
  dsimp only
  split
  · exact { h with frame := fun _ => rfl, entry := nofun, held := hopen }
  · split
    · refine { h with frame := fun _ => h.frame hcycle, entry := fun hread => ?_, held := hopen }
      injection hread with hread
      intro hnil
      rw [show q.outbound = [] from hnil] at hread
      exact nomatch hread
    · exact { h with frame := fun _ => h.frame hcycle, entry := nofun, held := hopen }

theorem acceptFrame_sound (f : List Byte) (h : q.Sound n) : (q.acceptFrame f).Sound n := by
  unfold CtlPort.acceptFrame
  dsimp only
  split
  · next hroom =>
    exact
      { h with
        buffer := (List.length_append ..).trans_le hroom
        frame := fun _ => rfl, entry := nofun, held := fun _ => .inr rfl }
  · exact { h with frame := fun _ => rfl, entry := nofun, held := fun _ => .inr rfl }

theorem receiveByte_sound (b : Byte) (h : q.Sound n) : (q.receiveByte b).Sound n := by
  unfold CtlPort.receiveByte
  split
  · next hwrite =>
    dsimp only
    split
    · exact { h with frame := fun _ => rfl, entry := nofun, held := fun _ => .inr rfl }
    · split
      · exact acceptFrame_sound _ h
      · exact { h with frame := fun hne => absurd hwrite hne }
  · exact h

theorem receiveBytes_sound (bytes : List Byte) (h : q.Sound n) : (bytes.foldl CtlPort.receiveByte q).Sound n := by
  induction bytes generalizing q with
  | nil => exact h
  | cons b bytes ih => exact ih (receiveByte_sound b h)

theorem endCycle_sound (h : q.Sound n) : q.endCycle.Sound n :=
  { h with frame := fun _ => rfl, entry := nofun, held := fun _ => .inl rfl }

theorem removeHead_sound (h : q.Sound n) (hread : q.cycle = .read true) : q.removeHead.Sound n := by
  have hframe : q.frame = none := h.frame (by rw [hread]; nofun)
  have hlength := List.length_pos_iff.2 (h.entry hread)
  have hqueue := h.queue
  unfold CtlPort.removeHead
  dsimp only
  split
  · refine { h with queue := ?_, frame := fun _ => hframe, entry := nofun, held := fun _ => .inr rfl }
    simp only [List.length_append, List.length_tail, List.length_singleton]
    omega
  · refine { h with queue := ?_, frame := fun _ => hframe, entry := nofun, held := fun _ => .inr rfl }
    simp only [List.length_tail]
    omega

theorem taken_sound (h : q.Sound n) (hroom : q.outbound.length + q.reservations < 16) :
    ({ q with buffer := q.buffer.tail, reservations := q.reservations + 1 } : CtlPort).Sound (n + 1) :=
  { h with
    buffer := (List.length_tail ..).trans_le ((Nat.sub_le _ _).trans h.buffer)
    queue := hroom
    reserved := congrArg (· + 1) h.reserved }

theorem responded_sound (e : OutEntry) (h : q.Sound (n + 1)) :
    ({ q with reservations := q.reservations - 1, outbound := q.outbound ++ [e] } : CtlPort).Sound n := by
  have hreserved := h.reserved
  have hqueue := h.queue
  refine { h with queue := ?_, reserved := ?_, entry := fun _ => by simp }
  · simp only [List.length_append, List.length_singleton]
    omega
  · show q.reservations - 1 = n
    omega

end link

/-! All ports. -/

/-- Each controller port is sound, with its number of reservations. -/
def Part.Queued (n : CtlNo → Nat) (d : Part) : Prop := ∀ c, (d.ctl c).Sound (n c)

/-- The entry reserved for the wanted response of the pending operation. -/
def Part.owed (d : Part) (c : CtlNo) : Nat :=
  if ∃ op, d.storeOp = some op ∧ op.requester = some c ∧ op.responseWanted = true then 1 else 0

/-- The start-up load answers nobody. -/
def Part.LoadUnasked (d : Part) : Prop := ∀ op, d.storeOp = some op → op.kind = .startUpLoad → op.requester = none

theorem owed_eq (d : Part) (c : CtlNo) (n : Nat) :
    n = d.owed c ↔ ((∃ op, d.storeOp = some op ∧ op.requester = some c ∧ op.responseWanted = true) → n = 1) ∧
      ((∀ op, d.storeOp = some op → op.requester = some c → op.responseWanted = false) → n = 0) := by
  unfold Part.owed
  have hnot : (∀ op, d.storeOp = some op → op.requester = some c → op.responseWanted = false) ↔
      ¬ ∃ op, d.storeOp = some op ∧ op.requester = some c ∧ op.responseWanted = true := by
    constructor
    · rintro h ⟨op, hop, hreq, hwanted⟩
      rw [h op hop hreq] at hwanted
      exact nomatch hwanted
    · exact fun h op hop hreq => Bool.eq_false_iff.2 fun hwanted => h ⟨op, hop, hreq, hwanted⟩
  rw [hnot]
  split
  · next h => simp [h]
  · next h => simp [h]

theorem queuesSound_iff (d : Part) : d.QueuesSound ↔ d.LoadUnasked ∧ d.Queued d.owed := by
  refine and_congr_right fun _ => forall_congr' fun c => ?_
  constructor
  · rintro ⟨hbuffer, hqueue, hwanted, hfree, hframe, hentry, hmask, hheld⟩
    exact ⟨hbuffer, hqueue, (owed_eq d c _).2 ⟨hwanted, hfree⟩, hframe, hentry, hmask, hheld⟩
  · intro h
    obtain ⟨hwanted, hfree⟩ := (owed_eq d c _).1 h.reserved
    exact ⟨h.buffer, h.queue, hwanted, hfree, h.frame, h.entry, h.mask, h.held⟩

section queued
variable {d t : Part} {n : CtlNo → Nat}

/-- A change of one port. -/
theorem Part.Queued.modCtl (h : d.Queued n) (c : CtlNo) {f : CtlPort → CtlPort} {m : CtlNo → Nat} (hc : (f (d.ctl c)).Sound (m c))
    (helse : ∀ r, r ≠ c → m r = n r) : (d.modCtl c f).Queued m := by
  intro r
  rw [modCtl_ctl]
  split
  · next hr => exact hr ▸ hc
  · next hr => rw [helse r hr]; exact h r

theorem owed_congr (h : t.storeOp = d.storeOp) : t.owed = d.owed := by
  unfold Part.owed
  rw [h]

theorem owed_of_idle (h : d.storeOp = none) (c : CtlNo) : d.owed c = 0 := if_neg fun ⟨_, hop, _⟩ => nomatch h.symm.trans hop

theorem loadUnasked_of_idle (h : d.storeOp = none) : d.LoadUnasked := fun _ hop => nomatch h.symm.trans hop

/-! Notices. -/

/-- From `d` to `t` the controller ports get notices, and the store goes on. -/
def Part.Informs (d t : Part) : Prop := t.storeOp = d.storeOp ∧ ∀ r, (d.ctl r).Notified (t.ctl r)

theorem Part.Informs.of_same (hstore : t.storeOp = d.storeOp) (hctl : ∀ r, t.ctl r = d.ctl r) : d.Informs t :=
  ⟨hstore, fun r => by rw [hctl]; exact CtlPort.Notified.receives [] _⟩

theorem Part.Informs.refl (d : Part) : d.Informs d := .of_same rfl fun _ => rfl

theorem Part.Informs.trans {e : Part} (h : d.Informs e) (h' : e.Informs t) : d.Informs t :=
  ⟨h'.1.trans h.1, fun r => (h.2 r).trans (h'.2 r)⟩

theorem Part.Quiet.informs (h : d.Quiet t) : d.Informs t := by
  obtain ⟨-, -, -, hctl, -, -, -, -, -, -, hstore⟩ := h
  exact ⟨hstore, hctl⟩

theorem notify_informs (d : Part) (rc : CtlNo → Bool) (n : Notice) : d.Informs (d.notify rc n) :=
  Part.Quiet.informs (.notify _ _ _)

theorem Part.WorkStep.informs (h : Part.WorkStep d t) : d.Informs t := by
  cases h with
  | act hact => exact hact.acts.quiet.informs
  | group g f => exact .of_same rfl fun _ => rfl
  | tell rc n => exact notify_informs _ _ _
  | console c f => exact .of_same rfl fun _ => rfl

theorem Part.Works.informs (h : d.Works t) : d.Informs t :=
  h.keeps (P := d.Informs) (fun _ _ hstep hd => hd.trans hstep.informs) (.refl d)

theorem Part.RadioActs.informs {p : PortNo} (h : d.RadioActs p t) : d.Informs t := by
  rcases h.acts with rfl | ⟨f, -, g, hg⟩
  · exact .refl _
  · exact (Part.Informs.of_same (d := d) (t := d.modPort p f) rfl fun _ => rfl).trans hg.quiet.informs

theorem Part.Informs.queued (h : d.Informs t) (hd : d.Queued n) : t.Queued n := fun c => (h.2 c).sound (hd c)

theorem Part.Informs.loadUnasked (h : d.Informs t) (hd : d.LoadUnasked) : t.LoadUnasked := by
  unfold Part.LoadUnasked
  rwa [h.1]

theorem Part.Informs.queuesSound (h : d.Informs t) (hd : d.QueuesSound) : t.QueuesSound := by
  rw [queuesSound_iff] at hd ⊢
  obtain ⟨hload, hqueued⟩ := hd
  exact ⟨h.loadUnasked hload, by rw [owed_congr h.1]; exact h.queued hqueued⟩

/-! Link events. -/

/-- A change of one port that keeps it sound. -/
theorem Part.QueuesSound.modCtl (h : d.QueuesSound) (c : CtlNo) {f : CtlPort → CtlPort}
    (hc : ∀ n, (d.ctl c).Sound n → (f (d.ctl c)).Sound n) : (d.modCtl c f).QueuesSound := by
  rw [queuesSound_iff] at h ⊢
  obtain ⟨hload, hqueued⟩ := h
  exact ⟨hload, hqueued.modCtl c (hc _ (hqueued c)) fun _ _ => rfl⟩

theorem directionByte_queuesSound (c : CtlNo) (part : DirectionPart) (h : d.QueuesSound) : (d.directionByte c part).QueuesSound := by
  unfold Part.directionByte
  split
  · exact h.modCtl c fun _ => ignoreSelect_sound
  · next hline =>
    have hline := Bool.eq_false_iff.2 hline
    have hopened (hclosed : (d.ctl c).cycle = .closed) : (d.openCycle c).QueuesSound :=
      h.modCtl c fun _ hq =>
        { hq with
          frame := fun _ => hq.frame (by rw [hclosed]; nofun), entry := nofun
          held := fun hheld => absurd (hheld.symm.trans hline) nofun }
    split
    · next hclosed => exact hopened hclosed
    · next hclosed =>
      have hctl : ((d.openCycle c).ctl c).resetLine = false ∧ ((d.openCycle c).ctl c).cycle = .direction := by
        unfold Part.openCycle
        rw [modCtl_ctl, if_pos rfl]
        exact ⟨hline, rfl⟩
      exact (hopened hclosed).modCtl c fun _ hq => direct_sound _ hq hctl.1 (by rw [hctl.2]; nofun)
    · next hdirection => exact h.modCtl c fun _ hq => direct_sound _ hq hline (by rw [hdirection]; nofun)
    all_goals exact h

theorem frameCompletion_queuesSound (c : CtlNo) (bytes : List Byte) (h : d.QueuesSound) : (d.frameCompletion c bytes).QueuesSound := by
  unfold Part.frameCompletion
  split
  · exact h
  · exact h.modCtl c fun _ => receiveBytes_sound bytes

theorem removal_queuesSound (c : CtlNo) (h : d.QueuesSound) : (d.removal c).QueuesSound := by
  unfold Part.removal
  split
  · next hread => exact h.modCtl c fun _ hq => removeHead_sound hq hread.1
  · exact h

/-! Controller port reset. -/

theorem unwanted_eq_some {c : CtlNo} {o : Option StoreOp} {op : StoreOp} (h : o.map (StoreOp.unwanted c) = some op) :
    ∃ op', o = some op' ∧ op.kind = op'.kind ∧ op.requester = op'.requester ∧
      (op.responseWanted = true ↔ op'.responseWanted = true ∧ op'.requester ≠ some c) := by
  obtain ⟨op', ho, rfl⟩ := Option.map_eq_some_iff.1 h
  refine ⟨op', ho, ?_⟩
  unfold StoreOp.unwanted
  split
  · next hreq => exact ⟨rfl, rfl, by simp [hreq]⟩
  · next hreq => exact ⟨rfl, rfl, by simp [hreq]⟩

theorem disown_owed (d : Part) (c : CtlNo) : (d.disown c).owed = Function.update d.owed c 0 := by
  funext r
  rw [Function.update_apply]
  have hiff : (∃ op, (d.disown c).storeOp = some op ∧ op.requester = some r ∧ op.responseWanted = true) ↔
      r ≠ c ∧ ∃ op, d.storeOp = some op ∧ op.requester = some r ∧ op.responseWanted = true := by
    constructor
    · rintro ⟨op, hop, hreq, hwanted⟩
      obtain ⟨op', hop', -, hreq', hiff⟩ := unwanted_eq_some (o := d.storeOp) hop
      obtain ⟨hwanted', hne⟩ := hiff.1 hwanted
      rw [hreq] at hreq'
      exact ⟨fun h => hne (h ▸ hreq'.symm), op', hop', hreq'.symm, hwanted'⟩
    · rintro ⟨hne, op, hop, hreq, hwanted⟩
      have hmap : (d.disown c).storeOp = some (StoreOp.unwanted c op) := congrArg (Option.map (StoreOp.unwanted c)) hop
      have hother : StoreOp.unwanted c op = op := if_neg (by rw [hreq]; simpa using hne)
      exact ⟨op, hother ▸ hmap, hreq, hwanted⟩
  unfold Part.owed
  by_cases hr : r = c
  · rw [if_pos hr, if_neg]
    exact fun h => (hiff.1 h).1 hr
  · rw [if_neg hr]
    exact if_congr (hiff.trans (and_iff_right hr)) rfl rfl

theorem disown_loadUnasked (c : CtlNo) (h : d.LoadUnasked) : (d.disown c).LoadUnasked := by
  intro op hop hk
  obtain ⟨op', hop', hkind, hreq, -⟩ := unwanted_eq_some (o := d.storeOp) hop
  exact hreq.trans (h op' hop' (hkind ▸ hk))

/-- After the reset of a port it reserves nothing and is as the reset left it; the other ports get at most a notice. -/
theorem controllerPortReset_queued (c : CtlNo) (hload : d.LoadUnasked) (h : ∀ r, r ≠ c → (d.ctl r).Sound (n r)) :
    (d.controllerPortReset c).LoadUnasked ∧ (d.controllerPortReset c).Queued (Function.update n c 0) ∧
      (d.controllerPortReset c).ctl c = (d.ctl c).portReset ∧ (d.controllerPortReset c).owed = Function.update d.owed c 0 := by
  obtain ⟨e, hbefore, hafter⟩ := controllerPortReset_works d c
  have hstore := hbefore.informs.1
  have hnote (r : CtlNo) : ((d.modCtl c CtlPort.portReset).ctl r).Notified ((d.controllerPortReset c).ctl r) :=
    (hbefore.informs.2 r).trans (hafter.informs.2 r)
  refine ⟨?_, fun r => ?_, ?_, ?_⟩
  · refine hafter.informs.loadUnasked (disown_loadUnasked c (hbefore.informs.loadUnasked ?_))
    exact hload
  · refine (hnote r).sound ?_
    rw [modCtl_ctl, Function.update_apply]
    split
    · exact portReset_sound _
    · next hr => exact h r hr
  · obtain ⟨-, -, hdetached, -⟩ := hnote c
    rw [modCtl_ctl, if_pos rfl] at hdetached
    exact hdetached rfl
  · rw [owed_congr hafter.informs.1, disown_owed, owed_congr hstore]
    rfl

theorem portResetAsserted_queuesSound (c : CtlNo) (h : d.QueuesSound) : (d.portResetAsserted c).QueuesSound := by
  rw [queuesSound_iff] at h ⊢
  obtain ⟨hload, hqueued⟩ := h
  obtain ⟨hload', hqueued', -, howed⟩ := controllerPortReset_queued (d := d.modCtl c fun q => { q with resetLine := true }) (n := d.owed)
    c hload fun r hr => by rw [modCtl_ctl, if_neg hr]; exact hqueued r
  refine ⟨hload', ?_⟩
  unfold Part.portResetAsserted
  rwa [howed]

theorem deviceReset_queuesSound : d.deviceReset.QueuesSound := by
  rw [queuesSound_iff]
  have hstore : d.deviceReset.storeOp = some .load := rfl
  have howed (c : CtlNo) : d.deviceReset.owed c = 0 := by
    refine if_neg ?_
    rintro ⟨op, hop, hreq, -⟩
    rw [hstore] at hop
    injection hop with hop
    subst hop
    exact nomatch hreq
  refine ⟨fun op hop _ => ?_, fun c => ?_⟩
  · rw [hstore] at hop
    injection hop with hop
    subst hop
    rfl
  · have hctl : d.deviceReset.ctl c = { CtlPort.reset with resetLine := (d.ctl c).resetLine, cycle := (d.ctl c).abandoned } := tget_tmap ..
    rw [hctl, howed]
    exact
      { buffer := Nat.zero_le _, queue := Nat.zero_le _, reserved := rfl, frame := fun _ => rfl
        entry := fun hread => by rcases abandoned_cases (d.ctl c) with h | h <;> rw [h] at hread <;> exact nomatch hread
        mask := show .lost ∈ defaultMask by decide, held := fun _ => abandoned_cases _ }

/-! Requests. -/

/-- The port invariant while a take of port `c` holds the entry for its response. -/
def Part.Taking (c : CtlNo) (d : Part) : Prop := d.LoadUnasked ∧ d.Queued (Function.update d.owed c (d.owed c + 1))

theorem takeFrame_taking {c : CtlNo} {f : List Byte} (h : d.QueuesSound) (hoffers : d.offers c f) : (d.takeFrame c).Taking c := by
  rw [queuesSound_iff] at h
  obtain ⟨hload, hqueued⟩ := h
  refine ⟨hload, ?_⟩
  refine hqueued.modCtl c ?_ fun r hr => Function.update_of_ne hr _ _
  rw [Function.update_self]
  exact taken_sound (hqueued c) hoffers.2

theorem respond_queuesSound {c : CtlNo} (kind tag : Byte) (st : Status) (data : List Byte) (h : d.Taking c) :
    (d.respond c kind tag st data).QueuesSound := by
  rw [queuesSound_iff]
  obtain ⟨hload, hqueued⟩ := h
  refine ⟨hload, hqueued.modCtl c ?_ fun r hr => (Function.update_of_ne hr _ _).symm⟩
  have hc := hqueued c
  rw [Function.update_self] at hc
  exact responded_sound _ hc

theorem Part.Informs.taking {c : CtlNo} (h : d.Informs t) (hd : d.Taking c) : t.Taking c := by
  obtain ⟨hload, hqueued⟩ := hd
  refine ⟨h.loadUnasked hload, ?_⟩
  rw [owed_congr h.1]
  exact h.queued hqueued

theorem detach_taking {c : CtlNo} (h : d.Taking c) : (d.detach c).Taking c := by
  obtain ⟨hload, hqueued⟩ := h
  obtain ⟨hload', hqueued', hctl, howed⟩ := controllerPortReset_queued c hload (n := d.owed) fun r hr => by
    have hr' := hqueued r
    rwa [Function.update_of_ne hr] at hr'
  have howed' : (d.detach c).owed = Function.update d.owed c 0 := howed
  refine ⟨hload', ?_⟩
  rw [howed']
  refine hqueued'.modCtl c ?_ fun r hr => Function.update_of_ne hr _ _
  rw [hctl, Function.update_self, Function.update_self]
  exact { portReset_sound (d.ctl c) with queue := Nat.le_of_ble_eq_true rfl, reserved := rfl }

theorem lost_mem_maskOf (ks : List NoticeKind) : .lost ∈ maskOf ks := by
  unfold maskOf
  rw [List.mem_filter]
  exact ⟨by decide, by simp⟩

theorem Part.CarriesOut.taking {c : CtlNo} {k : ReqKind} (h : Part.CarriesOut c k d t) (hd : d.Taking c) : t.Taking c := by
  have hworks (hw : d.Works t) : t.Taking c := hw.informs.taking hd
  have hport {f : CtlPort → CtlPort} (hf : ∀ n, (d.ctl c).Sound n → (f (d.ctl c)).Sound n) : (d.modCtl c f).Taking c :=
    ⟨hd.1, hd.2.modCtl c (hf _ (hd.2 c)) fun _ _ => rfl⟩
  cases h with
  | nothing => exact hd
  | attach _ mode pol => exact (attach_works d c mode pol).informs.taking (hport fun _ hq => { hq with mask := hq.mask })
  | detach => exact detach_taking hd
  | noticeMask _ ks => exact hport fun _ hq => { hq with mask := lost_mem_maskOf ks }
  | groupAdd _ g p hp => exact hworks (groupAdd_works d g p)
  | groupRemove _ g p hp => exact hworks (groupRemove_works d g p)
  | groupSet _ g hs => exact hworks (groupSet_works d g _)
  | groupDisband _ g => exact hworks (groupDisband_works d g)
  | @hold _ g hnone hone => exact hworks (beginHold_works d g c)
  | release _ g => exact hworks (endHold_works d g)
  | portSet _ p hs => exact (portSet_acts d p hs).informs.taking hd
  | portClear _ hout => exact (portClear_acts d _ hout).informs.taking hd
  | setOwner _ p owner => exact (setOwner_acts d p owner).informs.taking hd
  | consoleSet _ cls gs => exact hworks (Part.WorkStep.console d c _).works
  | talkRequest _ em hformed hinv => exact hworks (talkRequest_acts d _ c em).works
  | talkStart _ hinv hst => exact hworks (talkStart_acts d _).works
  | talkEnd _ hinv hst => exact hworks (Part.Acts.normalEnd d _).works
  | leaveList _ hinv => exact hworks (Part.Acts.leaveList d _ _).works
  | lapseGrant _ hinv hst => exact hworks (Part.Acts.lapseGrant d _ _).works
  | clearFloor _ g => exact hworks (Part.Acts.clearFloor d g _ _).works

/-- The operation that starts in an idle store takes the entry that the take holds (R137). -/
theorem startOp_queuesSound {e : Part} {c : CtlNo} {kind : StoreKind} (tag : Byte) (time : Nat) (h : d.Taking c)
    (hidle : d.storeOp = none) (hprep : d.Prepares e kind) : (e.startOp c tag kind time).part.QueuesSound := by
  rw [queuesSound_iff, startOp_storeOp]
  have hctl (r : CtlNo) : e.ctl r = d.ctl r := by cases hprep <;> rfl
  refine ⟨?_, fun r => ?_⟩
  · intro op hop hk
    injection hop with hop
    subst hop
    exact absurd hk hprep.kind_ne_load
  · have hr := h.2 r
    rw [Function.update_apply, owed_of_idle hidle, owed_of_idle hidle, ← hctl] at hr
    have howed : ∀ t : Part, t.storeOp = some ⟨kind, some c, true, tag, startTimer time⟩ → t.owed r = if r = c then 1 else 0 := by
      intro t ht
      unfold Part.owed
      by_cases hrc : r = c
      · rw [if_pos hrc, if_pos]
        exact ⟨_, ht, by rw [hrc], rfl⟩
      · rw [if_neg hrc, if_neg]
        rintro ⟨op, hop, hreq, -⟩
        rw [ht] at hop
        injection hop with hop
        subst hop
        injection hreq with hreq
        exact hrc hreq.symm
    rw [howed _ rfl]
    exact hr

theorem serve_queuesSound (k : ReqKind) (c : CtlNo) (h : d.QueuesSound) : (Part.serve k k.handler c d).QueuesSound := by
  rcases serve_cases k k.handler c d with hserve | ⟨f, hoffers, ⟨st, hserve⟩ | ⟨-, -, hserve⟩⟩
  · rwa [hserve]
  · rw [hserve]
    exact respond_queuesSound _ _ _ _ (takeFrame_taking h hoffers)
  · rw [hserve]
    have htaken := takeFrame_taking h hoffers
    obtain ⟨e, hrenewed, hsound⟩ := handler_sound c (frameTag f) (frameParams f) (d.takeFrame c) k
    have he : e.Taking c := by
      rcases hrenewed with rfl | ⟨g, rfl⟩
      · exact htaken
      · exact (modGroup_works (d.takeFrame c) g _).informs.taking htaken
    generalize k.handler c (frameTag f) (frameParams f) (d.takeFrame c) = r at hsound
    cases hsound with
    | answers a hout => exact respond_queuesSound _ _ _ _ (hout.taking he)
    | starts time hidle hprep => exact startOp_queuesSound _ time he hidle hprep

theorem unknownKind_queuesSound (c : CtlNo) (h : d.QueuesSound) : (d.unknownKind c).QueuesSound := by
  rcases unknownKind_cases c d with hserve | ⟨f, st, hoffers, hserve⟩
  · rwa [hserve]
  · rw [hserve]
    exact respond_queuesSound _ _ _ _ (takeFrame_taking h hoffers)

/-! The store, the load, the frame. -/

theorem Part.Completes.queued {e : Part} {op : StoreOp} (h : d.Completes op e) (hd : d.Queued n) : e.storeOp = none ∧ e.Queued n := by
  cases h with
  | presetStore hk => exact ⟨rfl, hd⟩
  | portsStore hk => exact ⟨rfl, hd⟩
  | nothing hk => exact ⟨rfl, hd⟩
  | @recalled slot pre hk hpre hheld =>
    have hinforms := (recallApply_works { d with storeOp := none } pre).informs
    exact ⟨hinforms.1, hinforms.queued (d := { d with storeOp := none }) hd⟩

theorem Part.StoreCompletes.queuesSound (hdone : d.StoreCompletes t) (h : d.QueuesSound) : t.QueuesSound := by
  rcases hdone with rfl | ⟨op, e, hop, hcompletes, kind, st, data, rfl⟩
  · exact h
  · rw [queuesSound_iff] at h ⊢
    obtain ⟨hidle, hqueued⟩ := hcompletes.queued h.2
    have howed (r : CtlNo) : d.owed r = if op.requester = some r ∧ op.responseWanted = true then 1 else 0 := by
      unfold Part.owed
      refine if_congr ⟨?_, fun ⟨hreq, hwanted⟩ => ⟨op, hop, hreq, hwanted⟩⟩ rfl rfl
      rintro ⟨op', hop', h⟩
      rw [hop] at hop'
      injection hop' with hop'
      exact hop' ▸ h
    have hanswers : (e.answersFor op kind st data).storeOp = none := by
      rcases answersFor_cases e op kind st data with h | ⟨c, f, h⟩ <;> rw [h] <;> exact hidle
    refine ⟨loadUnasked_of_idle hanswers, ?_⟩
    rw [funext (owed_of_idle hanswers)]
    unfold Part.answersFor
    cases hreq : op.requester with
    | none =>
      intro r
      have hr := hqueued r
      rwa [howed, hreq, if_neg (by simp)] at hr
    | some c =>
      dsimp only
      split
      · next hwanted =>
        refine hqueued.modCtl c (responded_sound _ ?_) fun r hr => ?_
        · have hc := hqueued c
          rwa [howed, if_pos ⟨hreq, hwanted⟩] at hc
        · rw [howed, if_neg]
          rintro ⟨hreq', -⟩
          rw [hreq] at hreq'
          injection hreq' with hreq'
          exact hr hreq'.symm
      · next hwanted =>
        intro r
        have hr := hqueued r
        rwa [howed, if_neg fun h => hwanted h.2] at hr

theorem loadDone_queuesSound (h : d.QueuesSound) : d.loadDone.QueuesSound := by
  unfold Part.loadDone
  split
  · next hload =>
    rw [queuesSound_iff] at h ⊢
    obtain ⟨hunasked, hqueued⟩ := h
    refine ⟨loadUnasked_of_idle rfl, fun c => ?_⟩
    obtain ⟨op, hop, hk⟩ := Option.map_eq_some_iff.1 ((loading_iff d).1 hload)
    have howed : d.owed c = 0 := by
      refine if_neg ?_
      rintro ⟨op', hop', hreq, -⟩
      rw [hop] at hop'
      injection hop' with hop'
      rw [← hop', hunasked op hop hk] at hreq
      exact nomatch hreq
    have hctl : d.loadPorts.loadPreset.storeIdle.ctl c = d.ctl c := by
      rw [Part.storeIdle, loadPreset_fields, loadPorts_fields]
      rfl
    rw [hctl, owed_of_idle rfl, ← howed]
    exact hqueued c
  · exact h

theorem levelBlockEnd_informs (d : Part) : d.Informs d.levelBlockEnd := by
  rcases Nat.lt_or_ge d.blockFrames 80 with hblock | hblock
  · rw [levelBlockEnd_of_not_due hblock]
    exact .refl d
  · obtain ⟨-, -, hop, hctls, -⟩ := levelled_rest d
    rw [levelBlockEnd_of_due hblock]
    exact .of_same hop fun r => congrArg (fun v => tget v r) hctls

theorem catchUp_informs (d : Part) : d.Informs d.catchUp := by
  unfold Part.catchUp
  refine .trans ?_ (levelBlockEnd_informs _)
  exact each_rel Part.Informs _ .refl (fun _ _ _ => .trans)
    (fun p d => portCatchUp_keeps (P := d.Informs) (fun _ _ h hd => hd.trans h.informs) (.refl d)) _ d

theorem frame_queuesSound (rx : Vector RxSlot 24) (mics : Vector Sample 6) (h : d.QueuesSound) : (d.frame rx mics).QueuesSound := by
  rw [queuesSound_iff] at h ⊢
  obtain ⟨hload, hqueued⟩ := h
  have hstore {op : StoreOp} (hop : (d.frame rx mics).storeOp = some op) :
      ∃ op', d.storeOp = some op' ∧ op.kind = op'.kind ∧ op.requester = op'.requester ∧ op.responseWanted = op'.responseWanted := by
    rw [frame_storeOp] at hop
    obtain ⟨op', hop', rfl⟩ := Option.map_eq_some_iff.1 hop
    exact ⟨op', hop', rfl, rfl, rfl⟩
  have howed (c : CtlNo) : (d.frame rx mics).owed c = d.owed c := by
    unfold Part.owed
    refine if_congr ⟨?_, ?_⟩ rfl rfl
    · rintro ⟨op, hop, hreq, hwanted⟩
      obtain ⟨op', hop', -, hreq', hwanted'⟩ := hstore hop
      exact ⟨op', hop', hreq'.symm.trans hreq, hwanted'.symm.trans hwanted⟩
    · rintro ⟨op, hop, hreq, hwanted⟩
      exact ⟨{ op with timeLeft := Timer.earlier op.timeLeft }, by rw [frame_storeOp, hop]; rfl, hreq, hwanted⟩
  refine ⟨fun op hop hk => ?_, fun c => ?_⟩
  · obtain ⟨op', hop', hkind, hreq, -⟩ := hstore hop
    exact hreq.trans (hload op' hop' (hkind ▸ hk))
  · have hctl : (d.frame rx mics).ctl c = d.ctl c := congrArg (fun v => tget v c) (frame_rest rx mics d).2.1
    rw [hctl, howed]
    exact hqueued c

/-! The instructions. -/

theorem effect_queuesSound (i : Instr) (d : Part) (hd : d.QueuesSound) : (Instr.effect i d).QueuesSound := by
  have hradio {t : Part} {p : PortNo} (h : d.RadioActs p t) : t.QueuesSound := h.informs.queuesSound hd
  have hworks {t : Part} (h : d.Works t) : t.QueuesSound := h.informs.queuesSound hd
  cases i with
  | deviceReset => exact deviceReset_queuesSound
  | startUpLoadCompletion => exact loadDone_queuesSound hd
  | portResetAsserted c => exact portResetAsserted_queuesSound c hd
  | portResetReleased c => exact hd.modCtl c fun _ hq => { hq with held := nofun }
  | directionByte c part => exact directionByte_queuesSound c part hd
  | frameCompletion c bytes => exact frameCompletion_queuesSound c bytes hd
  | linkCycleEnd c => exact hd.modCtl c fun _ => endCycle_sound
  | removal c => exact removal_queuesSound c hd
  | unknownKind c => exact unknownKind_queuesSound c hd
  | presetStoreCompletion => exact (presetStoreDone_completes d).queuesSound hd
  | portsStoreCompletion => exact (portsStoreDone_completes d).queuesSound hd
  | presetEraseCompletion => exact (presetEraseDone_completes d).queuesSound hd
  | presetReadCompletion => exact (presetReadDone_completes d).queuesSound hd
  | presetRecallCompletion => exact (presetRecallDone_completes d).queuesSound hd
  | emergencyStatusAsserted p => exact hradio (emergencyAsserted_acts d p)
  | emergencyStatusReleased p => exact hradio (emergencyReleased_acts d p)
  | linkLoss p => exact hradio (linkLoss_acts d p)
  | linkReturn p => exact hradio (linkReturn_acts d p)
  | restartTimerExpiry p => exact hradio (restartTimerExpiry_acts d p)
  | restartPulseEnd p => exact hradio (restartPulseEnd_acts d p)
  | guardEnd p => exact hradio (guardEnd_acts d p)
  | qualifiedCarrierYes p => exact hradio (carrierYes_acts d p)
  | qualifiedCarrierNo p => exact hradio (carrierNo_acts d p)
  | levelBlockEnd => exact (levelBlockEnd_informs d).queuesSound hd
  | tdmFrame rx mics => exact frame_queuesSound rx mics ((catchUp_informs d).queuesSound hd)
  | transmitLimitExpiry p => exact hradio (transmitLimitExpiry_acts d p)
  | carrierLimitExpiry p => exact hradio (carrierLimitExpiry_acts d p)
  | cooldownExpiry p => exact hradio (cooldownExpiry_acts d p)
  | hangTimerExpiry g => exact hworks (hangExpiry_acts d g).works
  | grantWindowExpiry g => exact hworks (windowExpiry_acts d g).works
  | preemptTimerExpiry g => exact hworks (preemptExpiry_acts d g).works
  | dissolveTimerExpiry g => exact hworks (dissolveExpiry_works d g)
  | holdTimerExpiry g => exact hworks (holdExpiry_works d g)
  | _ => exact serve_queuesSound _ _ hd

/-- Settles O55: every effect of a command keeps the queues sound. -/
theorem queuesKept : Obligations.QueuesKept := fun _ _ hs hstep => step_keeps effect_queuesSound hs hstep

end queued

end Sys2Proof.Machine
end

section
/-!
PROOFS. The hold invariant (O59). Whatever works on a floor or a group ends by examining the dissolve condition, or leaves what it
reads; the holds themselves are changed by four operations only.
-/

namespace Sys2Proof.Machine

/-! What is said of one group. -/

/-- A FREE floor has no holder. -/
def Part.FreeOpen (d : Part) (g : GroupNo) : Prop := (d.floor g).state = .free → (d.floor g).holder = none

/-- The dissolve timer runs exactly while its condition holds (R50). -/
def Part.Dissolves (d : Part) (g : GroupNo) : Prop :=
  (d.group g).dissolveTimer ≠ none ↔
    (d.group g).members ≠ [] ∧ (d.floor g).state = .free ∧ (d.group g).holdHolder = none ∧ (d.group g).settings.dissolve ≠ 0

theorem timed_dissolveTimer (r : GroupRec) (free : Bool) :
    (r.timed free).dissolveTimer ≠ none ↔ r.members ≠ [] ∧ free = true ∧ r.holdHolder = none ∧ r.settings.dissolve ≠ 0 := by
  unfold GroupRec.timed
  dsimp only
  split
  · next h => exact ⟨fun _ => ⟨h.2.1, h.1, h.2.2⟩, fun _ => nofun⟩
  · next h => exact ⟨fun hne => absurd rfl hne, fun hcond => absurd ⟨hcond.2.1, hcond.1, hcond.2.2⟩ h⟩

/-- A group whose record is examined as its floor stands. -/
theorem dissolves_of_timed {d : Part} {g : GroupNo} {r : GroupRec} {free : Bool} (hgroup : d.group g = r.timed free)
    (hfree : free = true ↔ (d.floor g).state = .free) : d.Dissolves g := by
  unfold Part.Dissolves
  rw [hgroup, timed_dissolveTimer, hfree]
  rfl

/-- From `d` to `t` each FREE floor stays without a holder, and each dissolve timer in line with its condition. -/
def Part.Retimes (d t : Part) : Prop := ∀ k, (d.FreeOpen k → t.FreeOpen k) ∧ (d.Dissolves k → t.Dissolves k)

section retimes
variable {d e t : Part} {g : GroupNo}

theorem Part.Retimes.refl (d : Part) : d.Retimes d := fun _ => ⟨id, id⟩

theorem Part.Retimes.trans (h : d.Retimes e) (h' : e.Retimes t) : d.Retimes t := fun k =>
  ⟨fun hd => (h' k).1 ((h k).1 hd), fun hd => (h' k).2 ((h k).2 hd)⟩

theorem retimes_of_same (hgroup : ∀ k, t.group k = d.group k) (hfloor : ∀ k, t.floor k = d.floor k) : d.Retimes t := fun k => by
  unfold Part.FreeOpen Part.Dissolves
  rw [hgroup, hfloor]
  exact ⟨id, id⟩

theorem told_retimes (d : Part) (ns : CtlNo → List Notice) : d.Retimes (d.told ns) := retimes_of_same (fun _ => rfl) fun _ => rfl
theorem modPort_retimes (d : Part) (p : PortNo) (f : PortRec → PortRec) : d.Retimes (d.modPort p f) :=
  retimes_of_same (fun _ => rfl) fun _ => rfl

/-- A change of one floor that leaves it FREE or busy, as it was. -/
theorem modFloor_retimes (d : Part) (g : GroupNo) (k : FloorRec → FloorRec)
    (hfree : (k (d.floor g)).state = .free ↔ (d.floor g).state = .free)
    (hopen : (d.floor g).state = .free → (k (d.floor g)).holder = (d.floor g).holder) : d.Retimes (d.modFloor g k) := fun x => by
  unfold Part.FreeOpen Part.Dissolves
  rw [modFloor_floor, modFloor_group]
  split
  · next hx =>
    subst hx
    rw [hfree]
    exact ⟨fun hd hst => (hopen hst).trans (hd hst), id⟩
  · exact ⟨id, id⟩

/-! The floor goes, or ends. -/

theorem givenTo_busy (src : Source) (mark : Bool) (window : Nat) (ws : List Entry) (n : Nat) :
    (FloorRec.givenTo src mark window ws n).state ≠ .free ∧ (FloorRec.givenTo src mark window ws n).holder = some src := by
  cases src <;> exact ⟨nofun, rfl⟩

theorem givenTo_free_iff (src : Source) (mark : Bool) (window : Nat) (ws : List Entry) (n : Nat) :
    (FloorRec.givenTo src mark window ws n).holder = none ↔ (FloorRec.givenTo src mark window ws n).state = .free := by
  obtain ⟨hbusy, hholder⟩ := givenTo_busy src mark window ws n
  rw [hholder]
  exact ⟨nofun, fun h => absurd h hbusy⟩

theorem passed_free_iff (window : Nat) (f : FloorRec) : (f.passed window).holder = none ↔ (f.passed window).state = .free := by
  unfold FloorRec.passed
  split
  · exact ⟨fun _ => rfl, fun _ => rfl⟩
  · exact givenTo_free_iff ..

theorem FloorGoes.retimes {f : FloorRec} {ns : CtlNo → List Notice} (h : d.FloorGoes t g f ns)
    (hfree : f.holder = none ↔ f.state = .free) : d.Retimes t := fun k => by
  obtain ⟨hfloor, -, hgroup, -⟩ := h
  by_cases hk : k = g
  · subst hk
    refine ⟨fun _ => ?_, fun _ => ?_⟩
    · unfold Part.FreeOpen
      rw [hfloor, if_pos rfl]
      exact hfree.2
    · refine dissolves_of_timed ((hgroup k).trans (if_pos rfl)) ?_
      rw [hfloor, if_pos rfl, decide_eq_true_iff]
      exact hfree
  · unfold Part.FreeOpen Part.Dissolves
    rw [hfloor, hgroup, if_neg hk, if_neg hk]
    exact ⟨id, id⟩

theorem FloorEnds.retimes {ns : CtlNo → List Notice} (h : d.FloorEnds t g ns) : d.Retimes t := fun k => by
  obtain ⟨hfloor, hgroup, -⟩ := h
  by_cases hk : k = g
  · subst hk
    refine ⟨fun _ => ?_, fun _ => ?_⟩
    · unfold Part.FreeOpen
      rw [hfloor, if_pos rfl]
      exact fun _ => rfl
    · refine dissolves_of_timed ((hgroup k).trans (if_pos rfl)) ?_
      rw [hfloor, if_pos rfl]
      exact ⟨fun _ => rfl, fun _ => rfl⟩
  · unfold Part.FreeOpen Part.Dissolves
    rw [hfloor, hgroup, if_neg hk, if_neg hk]
    exact ⟨id, id⟩

/-! Claims and ends of talk. -/

theorem losesPlace_retimes {p : PortNo} {cause : FloorCause} (h : d.LosesPlace t g p cause) : d.Retimes t := by
  unfold Part.LosesPlace at h
  dsimp only at h
  split at h
  · exact FloorGoes.retimes h (passed_free_iff _ _)
  · split at h
    · exact h ▸ modFloor_retimes d g _ Iff.rfl fun _ => rfl
    · exact h ▸ .refl d

theorem cuts_retimes {own : Option CtlNo} (h : d.Cuts t g own) : d.Retimes t := by
  unfold Part.Cuts at h
  dsimp only at h
  split at h
  · exact (modPort_retimes d _ _).trans (FloorGoes.retimes h (passed_free_iff _ _))
  · exact FloorGoes.retimes h (passed_free_iff _ _)

theorem emergencyMeets_retimes {src : Source} {own : Option CtlNo} (h : d.EmergencyMeets t g src own) : d.Retimes t := by
  unfold Part.EmergencyMeets at h
  dsimp only at h
  split at h
  · exact h ▸ .refl d
  · split at h
    · exact h ▸ .refl d
    · exact FloorGoes.retimes h (givenTo_free_iff ..)
  · exact FloorGoes.retimes h (givenTo_free_iff ..)
  · split at h
    · exact h ▸ .refl d
    · split at h
      · exact cuts_retimes h
      · exact h ▸ modFloor_retimes d g _ Iff.rfl fun _ => rfl

theorem joined_retimes (d : Part) (g : GroupNo) (e : Entry) : d.Retimes (d.joined g e) := by
  have hlist := modFloor_retimes d g (fun f => { f with waiting := f.waiting ++ [e] }) Iff.rfl fun _ => rfl
  unfold Part.joined
  cases e.source with
  | port p => exact hlist
  | console c => exact hlist.trans (retimes_of_same (fun _ => rfl) fun _ => rfl)

theorem claimsBusy_retimes {e : Entry} {own : Option CtlNo} (h : d.ClaimsBusy t g e own) : d.Retimes t := by
  unfold Part.ClaimsBusy at h
  split at h
  · exact (joined_retimes d g e).trans (emergencyMeets_retimes h)
  · exact h ▸ joined_retimes d g e

/-- The parked holder takes its floor back. -/
theorem resumed_retimes (d : Part) (g : GroupNo) (mark : Bool) (hhang : (d.floor g).state = .hang) :
    d.Retimes (d.modFloor g fun _ => { d.floor g with state := .talk, hangTimer := none, mark := mark }) :=
  modFloor_retimes d g _ (by rw [hhang]; exact ⟨nofun, nofun⟩) fun _ => rfl

theorem requests_retimes {p : PortNo} (h : d.Requests t g p) : d.Retimes t := by
  unfold Part.Requests at h
  dsimp only at h
  split at h
  · exact FloorGoes.retimes h (givenTo_free_iff ..)
  · split at h
    · next hhang =>
      rw [h]
      exact ((resumed_retimes d g _ hhang.1).trans (modPort_retimes _ p _)).trans (told_retimes _ _)
    · exact claimsBusy_retimes h

theorem joinReported_retimes {p : PortNo} (h : d.JoinReported t g p) : d.Retimes t := by
  have hkey : d.Retimes (if (d.floor g).state = .free then d else d.modPort p PortRec.key) := by
    split
    · exact .refl d
    · exact modPort_retimes d p _
  unfold Part.JoinReported at h
  dsimp only at h
  generalize (if (d.floor g).state = .free then d else d.modPort p PortRec.key) = e at h hkey
  by_cases hclaim : (e.port p).carrier = true ∧ (e.port p).state = if (d.floor g).state = .free then PortState.idle else .keyed
  · rw [if_pos hclaim] at h
    exact hkey.trans (requests_retimes h)
  · rw [if_neg hclaim] at h
    exact h ▸ hkey

theorem endsTalk_retimes (hbusy : (d.floor g).state ≠ .free) (h : d.EndsTalk t g) : d.Retimes t := by
  unfold Part.EndsTalk at h
  dsimp only at h
  split at h
  · exact FloorGoes.retimes h (passed_free_iff _ _)
  · rw [h]
    refine .trans (modFloor_retimes d g _ ?_ fun hfree => absurd hfree hbusy) (told_retimes _ _)
    exact ⟨nofun, fun hfree => absurd hfree hbusy⟩

theorem busy_of_holder {src : Source} (hopen : d.FreeOpen g) (hholder : (d.floor g).holder = some src) : (d.floor g).state ≠ .free :=
  fun hfree => nomatch (hopen hfree).symm.trans hholder

theorem dropsCarrier_retimes {p : PortNo} (hopen : ∀ k, d.FreeOpen k) (h : d.DropsCarrier t p) : d.Retimes t := by
  unfold Part.DropsCarrier at h
  split at h
  · dsimp only at h
    split at h
    · exact h ▸ modPort_retimes d p _
    · next g _ =>
      split at h
      · next hholder => exact (modPort_retimes d p _).trans (endsTalk_retimes (busy_of_holder (hopen g) hholder) h)
      · exact h ▸ modPort_retimes d p _
  · split at h
    · exact h ▸ .refl d
    · split at h
      · exact h ▸ modFloor_retimes d _ _ Iff.rfl fun _ => rfl
      · exact h ▸ .refl d

theorem raisesEmergency_retimes {p : PortNo} (h : d.RaisesEmergency t p) : d.Retimes t := by
  unfold Part.RaisesEmergency at h
  split at h
  · exact h ▸ .refl d
  · dsimp only at h
    split at h
    · exact (modFloor_retimes d _ _ (by exact Iff.rfl) fun _ => rfl).trans (emergencyMeets_retimes h)
    · split at h
      · rw [h]
        refine .trans (modFloor_retimes d _ _ ?_ fun _ => rfl) (told_retimes _ _)
        exact Iff.rfl
      · exact h ▸ .refl d

theorem consoleLeaves_retimes {c : CtlNo} (h : d.ConsoleLeaves t c) : d.Retimes t := by
  unfold Part.ConsoleLeaves at h
  split at h
  · exact h ▸ .refl d
  · rw [h]
    exact (modFloor_retimes d _ _ Iff.rfl fun _ => rfl).trans (retimes_of_same (fun _ => rfl) fun _ => rfl)
  · exact FloorGoes.retimes h (passed_free_iff _ _)

theorem talkStart_retimes (d : Part) (hst : (d.floor g).state = .pending) : d.Retimes (d.talkStart g) := by
  rw [talkStart_told]
  refine .trans (modFloor_retimes d g _ ?_ fun _ => rfl) (told_retimes _ _)
  rw [hst]
  exact ⟨nofun, nofun⟩

theorem talkRequest_retimes (d : Part) (g : GroupNo) (c : CtlNo) (em : Bool) : d.Retimes (d.talkRequest c g em).part := by
  by_cases hfree : (d.floor g).state = .free
  · rw [talkRequest_of_free hfree]
    exact FloorGoes.retimes (grantFromFree_goes g _ _ d) (givenTo_free_iff ..)
  · by_cases hparked : (d.floor g).state = .hang ∧ (d.floor g).holder = some (.console c)
    · rw [talkRequest_of_parked hparked.1 hparked.2]
      exact (resumed_retimes d g em hparked.1).trans (told_retimes _ _)
    · rw [talkRequest_of_busy hfree hparked]
      exact claimsBusy_retimes (busyClaim_claims g _ _ d)

theorem arbitrates_retimes {p : PortNo} (h : Part.Arbitrates p d t) (hopen : ∀ k, d.FreeOpen k) : d.Retimes t := by
  induction h with
  | nothing d => exact .refl d
  | told rc n hn _ ih => exact (retimes_of_same (fun _ => rfl) fun _ => rfl).trans (ih hopen)
  | sourceLost d =>
    have h := sourceLost_spec p d
    unfold Part.SourceLost at h
    split at h
    · rw [h]
      exact .refl d
    · split at h
      · exact losesPlace_retimes h
      · rw [h]
        exact .refl d
  | memberUnavailable d =>
    have h := memberUnavailable_spec p d
    unfold Part.BecomesUnavailable at h
    split at h
    · rw [h]
      exact .refl d
    · exact losesPlace_retimes h
  | carrierDrop d => exact dropsCarrier_retimes hopen (drops_spec p d)
  | emergencyRaised d => exact raisesEmergency_retimes (raises_spec p d)
  | claimIfMember d =>
    unfold Part.claimIfMember
    split
    · split
      · exact .refl d
      · exact requests_retimes (floorRequest_requests _ p d)
    · exact .refl d

end retimes

/-! The holds. -/

/-- The holds as they are said to be, with every FREE floor without a holder. -/
structure Part.HoldsWell (d : Part) : Prop where
  free : ∀ g, d.FreeOpen g
  timer : ∀ g, (d.group g).holdTimer = none ↔ (d.group g).holdHolder = none
  one : ∀ g h c, (d.group g).holdHolder = some c → (d.group h).holdHolder = some c → g = h
  attached : ∀ g c, (d.group g).holdHolder = some c → (d.ctl c).attached = true

/-- The invariant of the holds and the dissolve timers, with every FREE floor without a holder. -/
def Part.HoldsSettled (d : Part) : Prop := d.HoldsWell ∧ ∀ g, d.Dissolves g

theorem holdsSettled_iff (d : Part) : d.HoldsSettled ↔ d.HoldsSound ∧ ∀ g, d.FreeOpen g := by
  constructor
  · rintro ⟨hwell, hdissolves⟩
    exact ⟨⟨fun g => ⟨hwell.timer g, hdissolves g⟩, hwell.one, hwell.attached⟩, hwell.free⟩
  · rintro ⟨⟨hgroup, hone, hattached⟩, hfree⟩
    exact ⟨⟨hfree, fun g => (hgroup g).1, hone, hattached⟩, fun g => (hgroup g).2⟩

theorem freeOpen_of_sound {d : Part} (h : d.FloorsSound) (g : GroupNo) : d.FreeOpen g := by
  intro hfree
  obtain ⟨-, hstate⟩ := (h.1 g).1
  rw [hfree] at hstate
  have hstate : d.floor g = FloorRec.reset := hstate
  rw [hstate]
  rfl

/-- From `d` to `t` every hold stays with its timer, no controller is detached, and FREE floors stay without a holder. -/
structure Part.KeepsHolds (d t : Part) : Prop where
  free : ∀ g, d.FreeOpen g → t.FreeOpen g
  holder : ∀ g, (t.group g).holdHolder = (d.group g).holdHolder
  timer : ∀ g, (t.group g).holdTimer = (d.group g).holdTimer
  attached : ∀ c, (d.ctl c).attached = true → (t.ctl c).attached = true

section keep
variable {d e t : Part}

theorem Part.KeepsHolds.refl (d : Part) : d.KeepsHolds d := ⟨fun _ => id, fun _ => rfl, fun _ => rfl, fun _ => id⟩

theorem Part.KeepsHolds.trans (h : d.KeepsHolds e) (h' : e.KeepsHolds t) : d.KeepsHolds t :=
  ⟨fun g hd => h'.free g (h.free g hd), fun g => (h'.holder g).trans (h.holder g), fun g => (h'.timer g).trans (h.timer g),
    fun c hc => h'.attached c (h.attached c hc)⟩

theorem Part.KeepsHolds.well (h : d.KeepsHolds t) (hd : d.HoldsWell) : t.HoldsWell where
  free g := h.free g (hd.free g)
  timer g := by rw [h.timer, h.holder]; exact hd.timer g
  one g k c := by rw [h.holder, h.holder]; exact hd.one g k c
  attached g c := by rw [h.holder]; exact fun hc => h.attached c (hd.attached g c hc)

theorem notified_attached {q q' : CtlPort} (h : q.Notified q') : q'.attached = q.attached := by
  obtain ⟨-, -, -, hsame⟩ := h
  rw [hsame]

theorem keepsHolds_of_quiet (h : d.Quiet t) (hopen : ∀ g, d.FreeOpen g → t.FreeOpen g) : d.KeepsHolds t := by
  obtain ⟨-, hgroup, -, hctl, -⟩ := h
  exact ⟨hopen, fun g => by rw [hgroup], fun g => by rw [hgroup], fun c hc => by rwa [notified_attached (hctl c)]⟩

/-- Whatever the arbiter does is examined in the end. -/
theorem Part.HoldsSettled.of_quiet (h : d.HoldsSettled) (hquiet : d.Quiet t) (hretimes : d.Retimes t) : t.HoldsSettled :=
  ⟨(keepsHolds_of_quiet hquiet fun g => (hretimes g).1).well h.1, fun g => (hretimes g).2 (h.2 g)⟩

/-- Groups and floors stay, and no controller is detached. -/
theorem Part.HoldsSettled.of_same (h : d.HoldsSettled) (hgroup : ∀ g, t.group g = d.group g) (hfloor : ∀ g, t.floor g = d.floor g)
    (hctl : ∀ c, (d.ctl c).attached = true → (t.ctl c).attached = true) : t.HoldsSettled := by
  have hretimes := retimes_of_same hgroup hfloor
  refine ⟨Part.KeepsHolds.well ⟨fun g => (hretimes g).1, fun g => by rw [hgroup], fun g => by rw [hgroup], hctl⟩ h.1, ?_⟩
  exact fun g => (hretimes g).2 (h.2 g)

theorem Part.HoldsSettled.modCtl (h : d.HoldsSettled) (c : CtlNo) {f : CtlPort → CtlPort} (hf : ∀ q, (f q).attached = q.attached) :
    (d.modCtl c f).HoldsSettled := by
  refine h.of_same (fun _ => rfl) (fun _ => rfl) fun r hr => ?_
  rw [modCtl_ctl]
  split
  · next heq => rw [hf]; exact heq ▸ hr
  · exact hr

theorem Part.RadioActs.holdsSettled {p : PortNo} (hradio : d.RadioActs p t) (h : d.HoldsSettled) : t.HoldsSettled := by
  rcases hradio with rfl | ⟨f, -, harb⟩
  · exact h
  · obtain ⟨g, hg⟩ := harb.acts
    have hport : (d.modPort p f).HoldsSettled := h.of_same (fun _ => rfl) (fun _ => rfl) fun _ => id
    exact hport.of_quiet hg.quiet (arbitrates_retimes harb hport.1.free)

end keep

/-! The layout. -/

section layout
variable (d : Part) (g : GroupNo)

theorem modGroup_keepsHolds (f : GroupRec → GroupRec)
    (hf : ∀ r, (f r).holdHolder = r.holdHolder ∧ (f r).holdTimer = r.holdTimer) : d.KeepsHolds (d.modGroup g f) := by
  refine ⟨fun _ => id, fun k => ?_, fun k => ?_, fun _ => id⟩
  all_goals
    rw [modGroup_group]
    split
    · next hk => rw [hk]; exact (hf _).elim fun hholder htimer => by assumption
    · rfl

theorem leaveGroup_keepsHolds (p : PortNo) : d.KeepsHolds (d.leaveGroup g p) := by
  refine (modGroup_keepsHolds d g (fun r => { r with members := (d.group g).members.filter fun m => m ≠ p }) fun _ => ⟨rfl, rfl⟩).trans ?_
  refine keepsHolds_of_quiet (Part.Acts.reportRemoval _ g p).quiet fun k => ?_
  have h := leaveGroup_removes g p d
  unfold Part.Removes at h
  dsimp only at h
  split at h
  · exact (FloorEnds.retimes h.1 k).1
  · exact (losesPlace_retimes h k).1

theorem joinGroup_keepsHolds (p : PortNo) : d.KeepsHolds (d.joinGroup g p) :=
  (modGroup_keepsHolds d g (fun r => { r with members := (d.group g).members ++ [p] }) fun _ => ⟨rfl, rfl⟩).trans
    (keepsHolds_of_quiet (Part.Acts.reportJoin _ g p).quiet fun k => (joinReported_retimes (reportJoin_reported g p _) k).1)

theorem removeAll_keepsHolds : d.KeepsHolds (d.removeAll g) :=
  (modGroup_keepsHolds d g (fun r => { r with members := [] }) fun _ => ⟨rfl, rfl⟩).trans
    (keepsHolds_of_quiet (Part.Acts.removeMembers _ g _).quiet fun k => (FloorEnds.retimes (removeAll_empties g d).1 k).1)

theorem bumpRevision_keepsHolds (cause : LayoutCause) : d.KeepsHolds (d.bumpRevision g cause) := by
  rw [bumpRevision_revised]
  refine ⟨fun _ => id, fun k => ?_, fun k => ?_, fun c hc => ?_⟩
  · rw [revised_group]; split
    · next hk => rw [hk]; rfl
    · rfl
  · rw [revised_group]; split
    · next hk => rw [hk]; rfl
    · rfl
  · unfold Part.revised
    rwa [told_ctl, receives_attached]

theorem bumpRevision_dissolves (cause : LayoutCause) : (d.bumpRevision g cause).Dissolves g := by
  rw [bumpRevision_revised]
  refine dissolves_of_timed ((revised_group ..).trans (if_pos rfl)) ?_
  rw [decide_eq_true_iff]
  rfl

variable {d}

theorem dissolves_of_sameAt {t : Part} {k : GroupNo} (h : d.SameAt k t) (hd : d.Dissolves k) : t.Dissolves k := by
  unfold Part.Dissolves
  rwa [h.1, h.2]

/-- A change of one group that is revised in the end. -/
theorem Part.HoldsSettled.revise (h : d.HoldsSettled) {e : Part} (hkeep : d.KeepsHolds e) (helse : d.SameElsewhere g e)
    (cause : LayoutCause) : (e.bumpRevision g cause).HoldsSettled := by
  refine ⟨(hkeep.trans (bumpRevision_keepsHolds e g cause)).well h.1, fun k => ?_⟩
  by_cases hk : k = g
  · exact hk ▸ bumpRevision_dissolves e g cause
  · exact dissolves_of_sameAt ((helse.trans (bumpRevision_elsewhere e g cause)) k hk) (h.2 k)

theorem moveOut_holdsSettled (p : PortNo) (o : Option GroupNo) (h : d.HoldsSettled) : (d.moveOut p o).HoldsSettled := by
  unfold Part.moveOut
  cases o with
  | none => exact h
  | some o => exact h.revise o (leaveGroup_keepsHolds d o p) (leaveGroup_elsewhere d o p) _

theorem groupAdd_holdsSettled (p : PortNo) (h : d.HoldsSettled) : (d.groupAdd g p).HoldsSettled :=
  (moveOut_holdsSettled p _ h).revise g (joinGroup_keepsHolds _ g p) (joinGroup_elsewhere _ g p) _

theorem groupRemove_holdsSettled (p : PortNo) (h : d.HoldsSettled) : (d.groupRemove g p).HoldsSettled :=
  h.revise g (leaveGroup_keepsHolds d g p) (leaveGroup_elsewhere d g p) _

theorem groupSet_holdsSettled (s : GroupSettings) (h : d.HoldsSettled) : (d.groupSet g s).HoldsSettled :=
  h.revise g (modGroup_keepsHolds d g (fun r => { r with settings := s }) fun _ => ⟨rfl, rfl⟩) (modGroup_elsewhere d g _) _

theorem groupDisband_holdsSettled (h : d.HoldsSettled) : (d.groupDisband g).HoldsSettled :=
  h.revise g
    ((modGroup_keepsHolds d g (fun r => { r with settings := GroupSettings.default }) fun _ => ⟨rfl, rfl⟩).trans
      (removeAll_keepsHolds _ g))
    ((modGroup_elsewhere d g _).trans (removeAll_elsewhere _ g)) _

theorem dissolveExpiry_holdsSettled (h : d.HoldsSettled) : (d.dissolveExpiry g).HoldsSettled := by
  unfold Part.dissolveExpiry
  split
  · exact h.revise g (removeAll_keepsHolds d g) (removeAll_elsewhere d g) _
  · exact h

/-! The recall. -/

theorem each_keepsHolds {α : Type} {f : α → Part → Part} (hf : ∀ a d, Part.KeepsHolds d (f a d)) (l : List α) (d : Part) :
    d.KeepsHolds (Part.each f l d) :=
  each_rel Part.KeepsHolds f .refl (fun _ _ _ => .trans) hf l d

theorem clearFloor_retimes (d : Part) (g : GroupNo) (lapse : LapseCause) (cause : FloorCause) :
    d.Retimes (d.clearFloor g lapse cause) := FloorEnds.retimes (clearFloor_ends g lapse cause d).1

theorem recallApply_keepsHolds (pre : Preset) (d : Part) : d.KeepsHolds (d.recallApply pre) := by
  have hclear (g : GroupNo) (d : Part) : d.KeepsHolds (d.recallClear g) :=
    keepsHolds_of_quiet (Part.Acts.clearFloor d g _ _).quiet fun k => (clearFloor_retimes d g _ _ k).1
  have hleave (g : GroupNo) (ps : List PortNo) (d : Part) : d.KeepsHolds (d.leaveGroupAll g ps) :=
    each_keepsHolds (fun p d => leaveGroup_keepsHolds d g p) ps d
  have hlose (g : GroupNo) (d : Part) : d.KeepsHolds (d.recallLose pre g) :=
    (hleave g _ d).trans (bumpRevision_keepsHolds _ g _)
  have htrim (e : GroupEntry) (d : Part) : d.KeepsHolds (d.recallTrim e) := hleave e.group _ d
  have hjoin (g : GroupNo) (p : PortNo) (d : Part) : d.KeepsHolds (Part.reportJoin g p d) :=
    keepsHolds_of_quiet (Part.Acts.reportJoin d g p).quiet fun k => (joinReported_retimes (reportJoin_reported g p d) k).1
  have hwrite (e : GroupEntry) (d : Part) : d.KeepsHolds (d.recallWrite e) := by
    refine .trans ?_ (bumpRevision_keepsHolds _ e.group .recall)
    exact (modGroup_keepsHolds d e.group (fun r => { r with members := e.members, settings := e.settings, dissolveTimer := none })
      fun _ => ⟨rfl, rfl⟩).trans (each_keepsHolds (hjoin e.group) _ _)
  exact ((each_keepsHolds hclear _ d).trans (each_keepsHolds hlose _ _)).trans
    ((each_keepsHolds htrim _ _).trans (each_keepsHolds hwrite _ _))

/-- A losing group is examined by its revision, and left alone after it. -/
theorem recallApply_losing_dissolves {pre : Preset} (d : Part) {g : GroupNo} (hlose : d.losesTo pre g) :
    (d.recallApply pre).Dissolves g := by
  have hentry : ∀ e ∈ pre, e.group ≠ g := fun e he hg => hlose.1 ⟨e, he, hg⟩
  have hnodup : ((d.losing pre).map id).Nodup := (List.map_id _).symm ▸ losing_nodup d pre
  obtain ⟨m, -, hlast⟩ : ∃ m, (d.recallCleared pre).SameAt g m ∧ (m.recallLose pre g).SameAt g (d.recallLost pre) :=
    each_at (recallLose_elsewhere pre) (key := id) (mem_losing.2 hlose) hnodup (d.recallCleared pre)
  have hrest := (each_elsewhere recallTrim_elsewhere hentry (d.recallLost pre)).trans (each_elsewhere recallWrite_elsewhere hentry _)
  exact dissolves_of_sameAt (hlast.trans hrest) (bumpRevision_dissolves _ g _)

theorem recallApply_holdsSettled {pre : Preset} (hpre : Preset.Sound pre) (h : d.HoldsSettled) : (d.recallApply pre).HoldsSettled := by
  refine ⟨(recallApply_keepsHolds pre d).well h.1, fun g => ?_⟩
  by_cases hname : Part.namedBy pre g
  · obtain ⟨e, he, rfl⟩ := hname
    obtain ⟨hwritten, htimer⟩ := recallApply_named d hpre.1 he
    obtain ⟨hmembers, hsettings, -, hholder, -⟩ := hwritten.fields
    unfold Part.Dissolves
    rw [htimer, hmembers, hsettings, hholder]
    split
    · next hcond => exact ⟨fun _ => ⟨hcond.2.1, hcond.1, hcond.2.2⟩, fun _ => nofun⟩
    · next hcond => exact ⟨fun hne => absurd rfl hne, fun hc => absurd ⟨hc.2.1, hc.1, hc.2.2⟩ hcond⟩
  · by_cases hlose : d.losesTo pre g
    · exact recallApply_losing_dissolves d hlose
    · exact dissolves_of_sameAt (recallApply_untouched d hname hlose) (h.2 g)

/-! Holds begin and end. -/

theorem refreshDissolve_dissolves (d : Part) (g : GroupNo) : (d.refreshDissolve g).Dissolves g := by
  refine dissolves_of_timed ((refreshDissolve_group ..).trans (if_pos rfl)) ?_
  rw [decide_eq_true_iff]
  rfl

theorem refreshDissolve_holder (d : Part) (g k : GroupNo) :
    ((d.refreshDissolve g).group k).holdHolder = (d.group k).holdHolder ∧
      ((d.refreshDissolve g).group k).holdTimer = (d.group k).holdTimer := by
  rw [refreshDissolve_group]
  split
  · next hk => rw [hk]; exact ⟨rfl, rfl⟩
  · exact ⟨rfl, rfl⟩

/-- A change of one hold whose group is examined in the end. -/
theorem Part.HoldsSettled.rehold (h : d.HoldsSettled) {f : GroupRec → GroupRec}
    (htimer : (f (d.group g)).holdTimer = none ↔ (f (d.group g)).holdHolder = none)
    (hholder : ∀ c, (f (d.group g)).holdHolder = some c → (d.ctl c).attached = true ∧
      ∀ k, k ≠ g → (d.group k).holdHolder ≠ some c) : ((d.modGroup g f).refreshDissolve g).HoldsSettled := by
  have hhold (k : GroupNo) : (((d.modGroup g f).refreshDissolve g).group k).holdHolder =
      (if k = g then f (d.group g) else d.group k).holdHolder ∧
      (((d.modGroup g f).refreshDissolve g).group k).holdTimer = (if k = g then f (d.group g) else d.group k).holdTimer := by
    rw [← modGroup_group]
    exact refreshDissolve_holder _ g k
  refine ⟨⟨h.1.free, fun k => ?_, fun j k c => ?_, fun k c => ?_⟩, fun k => ?_⟩
  · rw [(hhold k).1, (hhold k).2]
    split
    · exact htimer
    · exact h.1.timer k
  · rw [(hhold j).1, (hhold k).1]
    by_cases hj : j = g <;> by_cases hk : k = g
    · exact fun _ _ => hj.trans hk.symm
    · rw [if_pos hj, if_neg hk]
      exact fun hc hc' => absurd hc' ((hholder c hc).2 k hk)
    · rw [if_neg hj, if_pos hk]
      exact fun hc hc' => absurd hc ((hholder c hc').2 j hj)
    · rw [if_neg hj, if_neg hk]
      exact h.1.one j k c
  · rw [(hhold k).1]
    split
    · exact fun hc => (hholder c hc).1
    · exact h.1.attached k c
  · by_cases hk : k = g
    · exact hk ▸ refreshDissolve_dissolves _ g
    · have hsame : d.SameAt k ((d.modGroup g f).refreshDissolve g) :=
        ⟨by rw [refreshDissolve_group, if_neg hk, modGroup_group, if_neg hk], rfl⟩
      exact dissolves_of_sameAt hsame (h.2 k)

theorem endHold_holdsSettled (h : d.HoldsSettled) : (d.endHold g).HoldsSettled := h.rehold g ⟨fun _ => rfl, fun _ => rfl⟩ nofun

theorem beginHold_holdsSettled {c : CtlNo} (h : d.HoldsSettled) (hone : ∀ k, (d.group k).holdHolder ≠ some c)
    (hattached : (d.ctl c).attached = true) : (d.beginHold c g).HoldsSettled := by
  refine h.rehold g ⟨nofun, nofun⟩ fun c' hc => ?_
  injection hc with hc
  exact hc ▸ ⟨hattached, fun k _ => hone k⟩

theorem renewed_holdsSettled (c : CtlNo) (h : d.HoldsSettled) : (d.renewed c g).HoldsSettled := by
  refine ⟨⟨h.1.free, fun k => ?_, fun j k r => ?_, fun k r => ?_⟩, fun k => ?_⟩
  · have htimer := h.1.timer k
    unfold Part.renewed
    rw [modGroup_group]
    split
    · next hk =>
      subst hk
      dsimp only
      split
      · next hholder => rw [hholder]; exact ⟨nofun, nofun⟩
      · exact htimer
    · exact htimer
  · rw [renewed_holder, renewed_holder]
    exact h.1.one j k r
  · rw [renewed_holder]
    exact h.1.attached k r
  · unfold Part.Dissolves
    rw [renewed_members, renewed_holder, renewed_settings, renewed_dissolveTimer]
    exact h.2 k

theorem holdExpiry_holdsSettled (h : d.HoldsSettled) : (d.holdExpiry g).HoldsSettled := by
  unfold Part.holdExpiry
  split
  · split
    · exact h
    · exact (endHold_holdsSettled g h).of_quiet (.notify _ _ _) (retimes_of_same (fun _ => rfl) fun _ => rfl)
  · exact h

/-! A controller port reset ends the controller's hold before it is detached. -/

theorem endHolds_holdsSettled (c : CtlNo) (gs : List GroupNo) (h : d.HoldsSettled) :
    (Part.each (Part.endHoldOf c) gs d).HoldsSettled := by
  induction gs generalizing d with
  | nil => exact h
  | cons k gs ih =>
    refine ih ?_
    unfold Part.endHoldOf
    split
    · exact endHold_holdsSettled k h
    · exact h

end layout

section resets
variable {d t : Part}

theorem consoleLeaves_quiet {c : CtlNo} (h : d.ConsoleLeaves t c) : d.Quiet t := by
  unfold Part.ConsoleLeaves at h
  split at h
  · exact h ▸ .refl d
  · next g _ =>
    rw [h]
    exact (Part.Acts.leaveList d g (.console c)).quiet
  · exact FloorGoes.quiet h

theorem holdsEnded_holder (d : Part) (c : CtlNo) (g : GroupNo) :
    ((d.holdsEnded c).group g).holdHolder = if (d.group g).holdHolder = some c then none else (d.group g).holdHolder := by
  have hgroup : (d.holdsEnded c).group g =
      if (d.group g).holdHolder = some c then
        { d.group g with holdHolder := none, holdTimer := none }.timed (decide ((d.floor g).state = FloorState.free))
      else d.group g := tget_tmap ..
  rw [hgroup]
  split <;> rfl

/-- The reset of a port as the last thing that happens to it: its hold has ended, so it may be detached. -/
theorem holdsEnded_holdsSettled (c : CtlNo) (q : CtlPort) (h : d.HoldsSettled) : ((d.modCtl c fun _ => q).holdsEnded c).HoldsSettled := by
  have hended : (d.holdsEnded c).HoldsSettled := endHolds_ended c d ▸ endHolds_holdsSettled c _ h
  have hsame : (d.modCtl c fun _ => q).holdsEnded c = (d.holdsEnded c).modCtl c fun _ => q := rfl
  rw [hsame]
  obtain ⟨hwell, hdissolves⟩ := hended
  refine ⟨⟨hwell.free, hwell.timer, hwell.one, fun g r hr => ?_⟩, hdissolves⟩
  have hr' : ((d.holdsEnded c).group g).holdHolder = some r := hr
  rw [modCtl_ctl, if_neg]
  · exact hwell.attached g r hr'
  · rintro rfl
    rw [holdsEnded_holder] at hr'
    split at hr'
    · exact nomatch hr'
    · next hne => exact hne hr'

theorem portResets_holdsSettled {c : CtlNo} {q : CtlPort} (hreset : Part.PortResets c q d t) (h : d.HoldsSettled) : t.HoldsSettled := by
  obtain ⟨e, hleaves, rfl⟩ := hreset
  have he := (holdsEnded_holdsSettled c q h).of_quiet (consoleLeaves_quiet hleaves) (consoleLeaves_retimes hleaves)
  refine he.of_same (fun _ => rfl) (fun _ => rfl) fun r hr => ?_
  rw [told_ctl, receives_attached]
  exact hr

theorem controllerPortReset_holdsSettled (c : CtlNo) (h : d.HoldsSettled) : (d.controllerPortReset c).HoldsSettled :=
  portResets_holdsSettled (controllerPortReset_resets c d) h

theorem attach_holdsSettled (c : CtlNo) (mode : AttnMode) (pol : Polarity) (h : d.HoldsSettled) : (d.attach c mode pol).HoldsSettled := by
  have hport : (d.modCtl c fun q => { q with attached := true, mode := mode, polarity := pol }).HoldsSettled := by
    refine h.of_same (fun _ => rfl) (fun _ => rfl) fun r hr => ?_
    rw [modCtl_ctl]
    split
    · rfl
    · exact hr
  unfold Part.attach
  dsimp only
  split
  · exact hport
  · exact hport.of_quiet (.notify _ _ _) (retimes_of_same (fun _ => rfl) fun _ => rfl)

/-! The requests. -/

theorem Part.CarriesOut.holdsSettled {c : CtlNo} {k : ReqKind} (h : Part.CarriesOut c k d t)
    (hattached : (d.ctl c).attached = true ∨ k = .attach) (hd : d.HoldsSettled) : t.HoldsSettled := by
  cases h with
  | nothing => exact hd
  | attach _ mode pol => exact attach_holdsSettled c mode pol hd
  | detach => exact (controllerPortReset_holdsSettled c hd).modCtl c fun _ => rfl
  | noticeMask _ ks => exact hd.modCtl c fun _ => rfl
  | groupAdd _ g p hp => exact groupAdd_holdsSettled g p hd
  | groupRemove _ g p hp => exact groupRemove_holdsSettled g p hd
  | groupSet _ g hs => exact groupSet_holdsSettled g _ hd
  | groupDisband _ g => exact groupDisband_holdsSettled g hd
  | @hold _ g hnone hone => exact beginHold_holdsSettled g hd hone (hattached.resolve_right nofun)
  | release _ g => exact endHold_holdsSettled g hd
  | portSet _ p hs => exact (portSet_acts d p hs).holdsSettled hd
  | portClear _ hout => exact (portClear_acts d _ hout).holdsSettled hd
  | setOwner _ p owner => exact (setOwner_acts d p owner).holdsSettled hd
  | consoleSet _ cls gs => exact hd.of_same (fun _ => rfl) (fun _ => rfl) fun _ => id
  | talkRequest _ em hformed hinv => exact hd.of_quiet (talkRequest_acts d _ c em).quiet (talkRequest_retimes d _ c em)
  | talkStart _ hinv hst => exact hd.of_quiet (talkStart_acts d _).quiet (talkStart_retimes d hst)
  | @talkEnd _ _ g hinv hst =>
    exact hd.of_quiet (Part.Acts.normalEnd d _).quiet (endsTalk_retimes (by rw [hst]; nofun) (endsTalk_spec _ d))
  | @leaveList _ _ g hinv =>
    refine hd.of_quiet (Part.Acts.leaveList d g (.console c)).quiet ?_
    exact (modFloor_retimes d g (FloorRec.leftBy (.console c)) Iff.rfl fun _ => rfl).trans (retimes_of_same (fun _ => rfl) fun _ => rfl)
  | lapseGrant _ hinv hst =>
    exact hd.of_quiet (Part.Acts.lapseGrant d _ _).quiet (FloorGoes.retimes (lapseGrant_goes _ _ d) (passed_free_iff _ _))
  | clearFloor _ g => exact hd.of_quiet (Part.Acts.clearFloor d g _ _).quiet (clearFloor_retimes d g _ _)

theorem holdsSettled_keptByTakes : Part.KeptByTakes Part.HoldsSettled where
  take c _ hd := hd.modCtl c fun _ => rfl
  respond c _ _ _ _ _ hd := hd.modCtl c fun _ => rfl
  renewed c g _ hd := renewed_holdsSettled g c hd
  carriesOut h hattached _ hd := h.holdsSettled hattached hd
  starts c tag d e kind time _ h hd := by
    have hsame : (∀ g, e.group g = d.group g) ∧ (∀ g, e.floor g = d.floor g) ∧ ∀ r, e.ctl r = d.ctl r := by
      cases h <;> exact ⟨fun _ => rfl, fun _ => rfl, fun _ => rfl⟩
    obtain ⟨hgroup, hfloor, hctl⟩ := hsame
    exact hd.of_same hgroup hfloor fun r hr => (congrArg CtlPort.attached (hctl r)).trans hr

/-! The store, the load, the frame. -/

theorem Part.StoreCompletes.holdsSettled (hdone : d.StoreCompletes t)
    (hpresets : ∀ i pre, tget d.slots i = some pre → Preset.Sound pre) (h : d.HoldsSettled) : t.HoldsSettled := by
  rcases hdone with rfl | ⟨op, e, -, hcompletes, kind, st, data, rfl⟩
  · exact h
  · have he : e.HoldsSettled := by
      have hidle : ({ d with storeOp := none } : Part).HoldsSettled := h.of_same (fun _ => rfl) (fun _ => rfl) fun _ => id
      cases hcompletes with
      | presetStore hk => exact h.of_same (fun _ => rfl) (fun _ => rfl) fun _ => id
      | portsStore hk => exact h.of_same (fun _ => rfl) (fun _ => rfl) fun _ => id
      | nothing hk => exact hidle
      | @recalled slot pre hk hpre hheld => exact recallApply_holdsSettled (hpresets slot pre hpre) hidle
    unfold Part.answersFor
    cases op.requester with
    | none => exact he
    | some c =>
      dsimp only
      split
      · exact he.modCtl c fun _ => rfl
      · exact he

theorem loadEntry_holdsSettled (e : GroupEntry) (h : d.HoldsSettled) : (d.loadEntry e).HoldsSettled := by
  unfold Part.loadEntry
  split
  · exact h
  · exact h.rehold e.group (h.1.timer e.group) fun c hc =>
      ⟨h.1.attached e.group c hc, fun k hk hc' => hk (h.1.one k e.group c hc' hc)⟩

theorem loadDone_holdsSettled (h : d.HoldsSettled) : d.loadDone.HoldsSettled := by
  have heach (es : List GroupEntry) {d : Part} (h : d.HoldsSettled) : (Part.each Part.loadEntry es d).HoldsSettled := by
    induction es generalizing d with
    | nil => exact h
    | cons e es ih => exact ih (loadEntry_holdsSettled e h)
  have hports : d.loadPorts.HoldsSettled := by
    rw [loadPorts_fields]
    exact h.of_same (fun _ => rfl) (fun _ => rfl) fun _ => id
  have hpreset : d.loadPorts.loadPreset.HoldsSettled := by
    unfold Part.loadPreset
    split
    · exact hports
    · exact heach _ hports
  unfold Part.loadDone
  split
  · exact hpreset.of_same (fun _ => rfl) (fun _ => rfl) fun _ => id
  · exact h

theorem deviceReset_holdsSettled (d : Part) : d.deviceReset.HoldsSettled := by
  have hgroup (g : GroupNo) : d.deviceReset.group g = GroupRec.reset := group_reset g
  have hfloor (g : GroupNo) : d.deviceReset.floor g = FloorRec.reset := floor_reset g
  refine ⟨⟨fun g _ => ?_, fun g => ?_, fun g k c hg => ?_, fun g c hg => ?_⟩, fun g => ?_⟩
  · rw [hfloor]; rfl
  · rw [hgroup]; exact ⟨fun _ => rfl, fun _ => rfl⟩
  · rw [hgroup] at hg; exact nomatch hg
  · rw [hgroup] at hg; exact nomatch hg
  · unfold Part.Dissolves
    rw [hgroup]
    exact ⟨fun hne => absurd rfl hne, fun hcond => absurd rfl hcond.1⟩

theorem levelBlockEnd_holdsSettled (h : d.HoldsSettled) : d.levelBlockEnd.HoldsSettled := by
  rcases Nat.lt_or_ge d.blockFrames 80 with hblock | hblock
  · rwa [levelBlockEnd_of_not_due hblock]
  · obtain ⟨-, -, -, hctls, hgroups, hfloors, -⟩ := levelled_rest d
    rw [levelBlockEnd_of_due hblock]
    exact h.of_same (fun g => congrArg (fun v => tget v g) hgroups) (fun g => congrArg (fun v => tget v g) hfloors) fun c hc =>
      (congrArg (fun v => (tget v c).attached) hctls).trans hc

theorem catchUp_holdsSettled (h : d.HoldsSettled) : d.catchUp.HoldsSettled := by
  have heach (ps : List PortNo) {d : Part} (h : d.HoldsSettled) : (Part.each Part.portCatchUp ps d).HoldsSettled := by
    induction ps generalizing d with
    | nil => exact h
    | cons p ps ih => exact ih (portCatchUp_keeps (fun _ _ hradio hd => hradio.holdsSettled hd) h)
  exact levelBlockEnd_holdsSettled (heach _ h)

theorem frame_holdsSettled (rx : Vector RxSlot 24) (mics : Vector Sample 6) (h : d.HoldsSettled) : (d.frame rx mics).HoldsSettled := by
  have hfloor (g : GroupNo) : ((d.frame rx mics).floor g).state = (d.floor g).state ∧
      ((d.frame rx mics).floor g).holder = (d.floor g).holder := by
    rw [frame_floor]
    exact ⟨rfl, rfl⟩
  have hgroup (g : GroupNo) : (d.frame rx mics).group g = (d.group g).tick := frame_group rx mics d g
  have hctl (c : CtlNo) : (d.frame rx mics).ctl c = d.ctl c := congrArg (fun v => tget v c) (frame_rest rx mics d).2.1
  refine ⟨⟨fun g => ?_, fun g => ?_, fun g k c => ?_, fun g c => ?_⟩, fun g => ?_⟩
  · unfold Part.FreeOpen
    rw [(hfloor g).1, (hfloor g).2]
    exact h.1.free g
  · rw [hgroup]
    exact (tickTimer_eq_none _).trans (h.1.timer g)
  · rw [hgroup, hgroup]
    exact h.1.one g k c
  · rw [hgroup, hctl]
    exact h.1.attached g c
  · unfold Part.Dissolves
    rw [hgroup, (hfloor g).1]
    exact (not_congr (tickTimer_eq_none _)).trans (h.2 g)

/-! The instructions. -/

theorem effect_holdsSettled (i : Instr) (d : Part) (hlayout : d.LayoutSound) (hd : d.HoldsSettled) : (Instr.effect i d).HoldsSettled := by
  have hradio {t : Part} {p : PortNo} (h : d.RadioActs p t) : t.HoldsSettled := h.holdsSettled hd
  have hlink {t : Part} {c : CtlNo} (h : d.LinkActs c t) : t.HoldsSettled := by
    obtain ⟨f, hf, rfl⟩ := h
    exact hd.modCtl c hf
  have hstore {t : Part} (h : d.StoreCompletes t) : t.HoldsSettled := h.holdsSettled hlayout.2.2.1 hd
  cases i with
  | deviceReset => exact deviceReset_holdsSettled d
  | startUpLoadCompletion => exact loadDone_holdsSettled hd
  | portResetAsserted c => exact controllerPortReset_holdsSettled c (hd.modCtl c fun _ => rfl)
  | portResetReleased c => exact hd.modCtl c fun _ => rfl
  | directionByte c part => exact hlink (directionByte_link c d part)
  | frameCompletion c bytes => exact hlink (frameCompletion_link c d bytes)
  | linkCycleEnd c => exact hd.modCtl c fun _ => rfl
  | removal c => exact hlink (removal_link c d)
  | unknownKind c => exact holdsSettled_keptByTakes.unknownKind c hd
  | presetStoreCompletion => exact hstore (presetStoreDone_completes d)
  | portsStoreCompletion => exact hstore (portsStoreDone_completes d)
  | presetEraseCompletion => exact hstore (presetEraseDone_completes d)
  | presetReadCompletion => exact hstore (presetReadDone_completes d)
  | presetRecallCompletion => exact hstore (presetRecallDone_completes d)
  | emergencyStatusAsserted p => exact hradio (emergencyAsserted_acts d p)
  | emergencyStatusReleased p => exact hradio (emergencyReleased_acts d p)
  | linkLoss p => exact hradio (linkLoss_acts d p)
  | linkReturn p => exact hradio (linkReturn_acts d p)
  | restartTimerExpiry p => exact hradio (restartTimerExpiry_acts d p)
  | restartPulseEnd p => exact hradio (restartPulseEnd_acts d p)
  | guardEnd p => exact hradio (guardEnd_acts d p)
  | qualifiedCarrierYes p => exact hradio (carrierYes_acts d p)
  | qualifiedCarrierNo p => exact hradio (carrierNo_acts d p)
  | levelBlockEnd => exact levelBlockEnd_holdsSettled hd
  | tdmFrame rx mics => exact frame_holdsSettled rx mics (catchUp_holdsSettled hd)
  | transmitLimitExpiry p => exact hradio (transmitLimitExpiry_acts d p)
  | carrierLimitExpiry p => exact hradio (carrierLimitExpiry_acts d p)
  | cooldownExpiry p => exact hradio (cooldownExpiry_acts d p)
  | hangTimerExpiry g =>
    refine hd.of_quiet (hangExpiry_acts d g).quiet ?_
    show d.Retimes (d.hangExpiry g)
    unfold Part.hangExpiry
    split
    · exact FloorGoes.retimes (endNoHang_goes g _ d) (passed_free_iff _ _)
    · exact .refl d
  | grantWindowExpiry g =>
    refine hd.of_quiet (windowExpiry_acts d g).quiet ?_
    show d.Retimes (d.windowExpiry g)
    unfold Part.windowExpiry
    split
    · exact FloorGoes.retimes (lapseGrant_goes g _ d) (passed_free_iff _ _)
    · exact .refl d
  | preemptTimerExpiry g =>
    refine hd.of_quiet (preemptExpiry_acts d g).quiet ?_
    show d.Retimes (d.preemptExpiry g)
    unfold Part.preemptExpiry
    split
    · exact cuts_retimes (cut_cuts g none d)
    · exact .refl d
  | dissolveTimerExpiry g => exact dissolveExpiry_holdsSettled g hd
  | holdTimerExpiry g => exact holdExpiry_holdsSettled g hd
  | _ => exact holdsSettled_keptByTakes.serve _ _ hd

/-- Settles O59: the invariant is kept together with the layout's, which says what a recall may write. -/
theorem holdsKept : Obligations.HoldsKept := by
  intro s s' hlayout hfloors hholds hstep
  have hd : s.part.LayoutSound ∧ s.part.HoldsSettled :=
    ⟨hlayout, (holdsSettled_iff _).2 ⟨hholds, freeOpen_of_sound hfloors⟩⟩
  have hs' := step_keeps (P := fun d => d.LayoutSound ∧ d.HoldsSettled)
    (fun i d hd => ⟨effect_layoutSound i d hd.1, effect_holdsSettled i d hd.1 hd.2⟩) hd hstep
  exact ((holdsSettled_iff _).1 hs'.2).1

end resets

end Sys2Proof.Machine
end

section
/-!
PROOFS. Floor records (O58, O60): what a floor lists, which winner a grant decision names, and that each change of a floor record that
the arbiter makes leaves it sound.
-/

namespace Sys2Proof.Machine

/-! Waiting lists. -/

/-- The source waits. -/
def FloorRec.Lists (f : FloorRec) (src : Source) : Prop := ∃ e ∈ f.waiting, e.source = src

/-- The low-turn count is 0 where no waiting source is of class LOW (R97). -/
def FloorRec.LowCounted (f : FloorRec) : Prop := (∀ e ∈ f.waiting, e.srcClass ≠ .low) → f.lowTurn = 0

theorem mem_listWithout {src : Source} {ws : List Entry} {e : Entry} : e ∈ listWithout src ws ↔ e ∈ ws ∧ e.source ≠ src := by
  unfold listWithout
  rw [List.mem_filter, decide_eq_true_iff]

theorem listWithout_lists {src x : Source} {ws : List Entry} :
    (∃ e ∈ listWithout src ws, e.source = x) ↔ (∃ e ∈ ws, e.source = x) ∧ x ≠ src := by
  constructor
  · rintro ⟨e, he, rfl⟩
    obtain ⟨hmem, hne⟩ := mem_listWithout.1 he
    exact ⟨⟨e, hmem, rfl⟩, hne⟩
  · rintro ⟨⟨e, he, rfl⟩, hne⟩
    exact ⟨e, mem_listWithout.2 ⟨he, hne⟩, rfl⟩

theorem listWithout_nodup {src : Source} {ws : List Entry} (h : (ws.map fun e => e.source).Nodup) :
    ((listWithout src ws).map fun e => e.source).Nodup := h.sublist (List.filter_sublist.map _)

theorem countWith_eq_zero {ws : List Entry} (n : Nat) (h : ∀ e ∈ ws, e.srcClass ≠ .low) : countWith ws n = 0 := by
  unfold countWith
  rw [if_neg]
  rw [List.any_eq_true]
  rintro ⟨e, he, hlow⟩
  exact h e he (of_decide_eq_true hlow)

/-! The grant decision. -/

theorem grantDecision_eq_none {ws : List Entry} {n : Nat} (h : grantDecision ws n = none) : ws = [] := by
  by_contra hne
  obtain ⟨e, ws', rfl⟩ := List.exists_cons_of_ne_nil hne
  unfold grantDecision at h
  split at h
  · exact nomatch h
  · split at h
    · next l hlow =>
      split at h
      · exact nomatch h
      · next hhigh =>
        rw [Option.map_eq_none_iff, List.find?_eq_none] at h
        rw [not_or] at hhigh
        refine hhigh.1 (List.countP_eq_zero.2 fun x hx => ?_)
        exact h x hx
    · next hlow =>
      rw [Option.map_eq_none_iff, List.find?_eq_none] at h
      rw [List.find?_eq_none] at hlow
      have hfirst := h e List.mem_cons_self
      have hfirst' := hlow e List.mem_cons_self
      cases hclass : e.srcClass
      · exact hfirst (decide_eq_true hclass)
      · exact hfirst' (decide_eq_true hclass)

/-- The winner waits; it is a routine entry only where no emergency entry waits. -/
theorem mem_of_grantDecision {ws : List Entry} {n m : Nat} {e : Entry} (h : grantDecision ws n = some (e, m)) :
    e ∈ ws ∧ (e.emergency = false → ∀ x ∈ ws, x.emergency = false) := by
  unfold grantDecision at h
  split at h
  · next x hfind =>
    injection h with h
    injection h with h
    subst h
    refine ⟨List.mem_of_find?_eq_some hfind, fun hcalm => ?_⟩
    have := List.find?_some hfind
    exact absurd (this.symm.trans hcalm) nofun
  · next hcalm =>
    rw [List.find?_eq_none] at hcalm
    refine ⟨?_, fun _ x hx => Bool.eq_false_iff.2 (hcalm x hx)⟩
    have hmem {q : Entry → Bool} {k : Nat} (h : ((ws.find? q).map fun h => (h, k)) = some (e, m)) : e ∈ ws := by
      obtain ⟨x, hx, heq⟩ := Option.map_eq_some_iff.1 h
      injection heq with heq
      exact heq ▸ List.mem_of_find?_eq_some hx
    split at h
    · next l hlow =>
      split at h
      · injection h with h
        injection h with h
        exact h ▸ List.mem_of_find?_eq_some hlow
      · exact hmem h
    · exact hmem h

/-! What soundness says in each state (R70). -/

section sound
variable {f : FloorRec}

theorem lowCounted_of_sound (h : f.Sound) : f.LowCounted := h.1

theorem reset_sound : FloorRec.reset.Sound := ⟨fun _ => rfl, rfl⟩

theorem eq_reset_of_sound (h : f.Sound) (hst : f.state = .free) : f = FloorRec.reset := by
  obtain ⟨-, h⟩ := h
  rwa [hst] at h

theorem sound_pending_iff (f : FloorRec) (hst : f.state = .pending) :
    f.Sound ↔ f.LowCounted ∧ (∃ c, f.holder = some (.console c)) ∧ f.hangTimer = none ∧ f.windowTimer ≠ none ∧ f.preemptTimer = none ∧
      (f.mark = false → ∀ e ∈ f.waiting, e.emergency = false) := by
  unfold FloorRec.Sound FloorRec.LowCounted
  rw [hst]

theorem sound_talk_iff (f : FloorRec) (hst : f.state = .talk) :
    f.Sound ↔ f.LowCounted ∧ f.holder ≠ none ∧ f.hangTimer = none ∧ f.windowTimer = none ∧
      (f.preemptTimer ≠ none ↔ f.mark = false ∧ ∃ e ∈ f.waiting, e.emergency = true) := by
  unfold FloorRec.Sound FloorRec.LowCounted
  rw [hst]

theorem sound_hang_iff (f : FloorRec) (hst : f.state = .hang) :
    f.Sound ↔ f.LowCounted ∧ f.holder ≠ none ∧ f.mark = false ∧ f.hangTimer ≠ none ∧ f.windowTimer = none ∧ f.preemptTimer = none ∧
      (∀ e ∈ f.waiting, e.emergency = false) := by
  unfold FloorRec.Sound FloorRec.LowCounted
  rw [hst]

/-- Exactly a FREE floor has no holder. -/
theorem holder_eq_none_iff (h : f.Sound) : f.holder = none ↔ f.state = .free := by
  cases hst : f.state with
  | free =>
    rw [eq_reset_of_sound h hst]
    exact ⟨fun _ => rfl, fun _ => rfl⟩
  | pending =>
    obtain ⟨-, ⟨c, hc⟩, -⟩ := (sound_pending_iff f hst).1 h
    rw [hc]
    exact ⟨nofun, nofun⟩
  | talk => exact ⟨fun hnone => absurd hnone ((sound_talk_iff f hst).1 h).2.1, nofun⟩
  | hang => exact ⟨fun hnone => absurd hnone ((sound_hang_iff f hst).1 h).2.1, nofun⟩

/-- A radio port holds a floor in TALK or in HANG only. -/
theorem talk_or_hang_of_port {p : PortNo} (h : f.Sound) (hp : f.holder = some (.port p)) : f.state = .talk ∨ f.state = .hang := by
  cases hst : f.state with
  | free => exact nomatch hp.symm.trans ((holder_eq_none_iff h).2 hst)
  | pending =>
    obtain ⟨-, ⟨c, hc⟩, -⟩ := (sound_pending_iff f hst).1 h
    exact nomatch hp.symm.trans hc
  | talk => exact .inl rfl
  | hang => exact .inr rfl

theorem busy_of_lists {src : Source} (h : f.Sound) (hsrc : f.Lists src) : f.state ≠ .free := by
  intro hst
  rw [eq_reset_of_sound h hst] at hsrc
  obtain ⟨e, he, -⟩ := hsrc
  exact nomatch he

/-! The floor goes to a source. -/

theorem givenTo_waiting (src : Source) (mark : Bool) (window : Nat) (ws : List Entry) (n : Nat) :
    (FloorRec.givenTo src mark window ws n).waiting = ws ∧ (FloorRec.givenTo src mark window ws n).lowTurn = n := by
  cases src <;> exact ⟨rfl, rfl⟩

theorem givenTo_sound (src : Source) {mark : Bool} (window : Nat) {ws : List Entry} {n : Nat}
    (hlow : (∀ e ∈ ws, e.srcClass ≠ .low) → n = 0) (hmark : mark = false → ∀ e ∈ ws, e.emergency = false) :
    (FloorRec.givenTo src mark window ws n).Sound := by
  cases src with
  | port p =>
    refine (sound_talk_iff _ rfl).2 ⟨hlow, nofun, rfl, rfl, fun h => absurd rfl h, ?_⟩
    rintro ⟨hm, e, he, hemergency⟩
    exact nomatch (hmark hm e he).symm.trans hemergency
  | console c => exact (sound_pending_iff _ rfl).2 ⟨hlow, ⟨c, rfl⟩, rfl, nofun, rfl, hmark⟩

/-! Entries leave and join. -/

theorem leftBy_lists {src x : Source} : (f.leftBy src).Lists x ↔ f.Lists x ∧ x ≠ src := listWithout_lists

theorem leftBy_sound (src : Source) (h : f.Sound) : (f.leftBy src).Sound := by
  have hlow : (f.leftBy src).LowCounted := fun hne => countWith_eq_zero _ hne
  have hany : (listWithout src f.waiting).any (fun e => e.emergency) = true ↔ ∃ e ∈ (f.leftBy src).waiting, e.emergency = true :=
    List.any_eq_true
  have hcalm (hw : ∀ e ∈ f.waiting, e.emergency = false) : ∀ e ∈ (f.leftBy src).waiting, e.emergency = false := fun e he =>
    hw e (mem_listWithout.1 he).1
  cases hst : f.state with
  | free =>
    rw [eq_reset_of_sound h hst]
    exact reset_sound
  | pending =>
    obtain ⟨-, hholder, hhang, hwindow, hpreempt, hmark⟩ := (sound_pending_iff f hst).1 h
    refine (sound_pending_iff (f.leftBy src) hst).2 ⟨hlow, hholder, hhang, hwindow, ?_, fun hm => hcalm (hmark hm)⟩
    show (if _ then f.preemptTimer else none) = none
    rw [hpreempt, ite_self]
  | talk =>
    obtain ⟨-, hholder, hhang, hwindow, hpreempt⟩ := (sound_talk_iff f hst).1 h
    refine (sound_talk_iff (f.leftBy src) hst).2 ⟨hlow, hholder, hhang, hwindow, ?_⟩
    show (if _ then f.preemptTimer else none) ≠ none ↔ f.mark = false ∧ _
    split
    · next hem =>
      obtain ⟨e, he, hemergency⟩ := hany.1 hem
      rw [hpreempt]
      exact and_congr_right fun _ => ⟨fun _ => ⟨e, he, hemergency⟩, fun _ => ⟨e, (mem_listWithout.1 he).1, hemergency⟩⟩
    · next hem => exact ⟨fun hne => absurd rfl hne, fun hcond => absurd (hany.2 hcond.2) hem⟩
  | hang =>
    obtain ⟨-, hholder, hmark, hhang, hwindow, hpreempt, hw⟩ := (sound_hang_iff f hst).1 h
    refine (sound_hang_iff (f.leftBy src) hst).2 ⟨hlow, hholder, hmark, hhang, hwindow, ?_, hcalm hw⟩
    show (if _ then f.preemptTimer else none) = none
    rw [hpreempt, ite_self]

/-- A sound floor but for an emergency entry of `src` that it has not met yet (R100). -/
structure FloorRec.Stirred (src : Source) (f : FloorRec) : Prop where
  low : f.LowCounted
  busy : f.state ≠ .free
  claims : ∃ e ∈ f.waiting, e.source = src ∧ e.emergency = true
  pending : f.state = .pending → (∃ c, f.holder = some (.console c)) ∧ f.hangTimer = none ∧ f.windowTimer ≠ none ∧ f.preemptTimer = none
  talk : f.state = .talk → f.holder ≠ none ∧ f.hangTimer = none ∧ f.windowTimer = none ∧ (f.preemptTimer ≠ none → f.mark = false)
  hang : f.state = .hang → f.holder ≠ none

/-- An emergency entry of `src` comes into a busy floor, the rest of which stays. -/
theorem stirred_of_sound {src : Source} {ws : List Entry} (h : f.Sound) (hbusy : f.state ≠ .free)
    (hlow : (∀ e ∈ ws, e.srcClass ≠ .low) → ∀ e ∈ f.waiting, e.srcClass ≠ .low)
    (hclaims : ∃ e ∈ ws, e.source = src ∧ e.emergency = true) : ({ f with waiting := ws } : FloorRec).Stirred src where
  low hne := lowCounted_of_sound (f := f) h (hlow hne)
  busy := hbusy
  claims := hclaims
  pending hst := by
    obtain ⟨-, hholder, hhang, hwindow, hpreempt, -⟩ := (sound_pending_iff f hst).1 h
    exact ⟨hholder, hhang, hwindow, hpreempt⟩
  talk hst := by
    obtain ⟨-, hholder, hhang, hwindow, hpreempt⟩ := (sound_talk_iff f hst).1 h
    exact ⟨hholder, hhang, hwindow, fun hne => (hpreempt.1 hne).1⟩
  hang hst := ((sound_hang_iff f hst).1 h).2.1

/-- The record with an entry at the tail of its list (R92). -/
def FloorRec.joinedBy (e : Entry) (f : FloorRec) : FloorRec := { f with waiting := f.waiting ++ [e] }

theorem joinedBy_lists {e : Entry} {x : Source} : (f.joinedBy e).Lists x ↔ f.Lists x ∨ x = e.source := by
  unfold FloorRec.Lists FloorRec.joinedBy
  simp only [List.mem_append, List.mem_singleton, or_and_right, exists_or, exists_eq_left]
  exact or_congr_right eq_comm

/-- A routine entry joins the list of a busy floor. -/
theorem joinedBy_sound {e : Entry} (h : f.Sound) (hbusy : f.state ≠ .free) (he : e.emergency = false) : (f.joinedBy e).Sound := by
  have hmem (x : Entry) : x ∈ f.waiting ++ [e] ↔ x ∈ f.waiting ∨ x = e := by rw [List.mem_append, List.mem_singleton]
  have hlow : (f.joinedBy e).LowCounted := fun hne =>
    lowCounted_of_sound (f := f) h fun x hx => hne x ((hmem x).2 (.inl hx))
  have hcalm (hw : ∀ x ∈ f.waiting, x.emergency = false) : ∀ x ∈ f.waiting ++ [e], x.emergency = false := fun x hx =>
    ((hmem x).1 hx).elim (hw x) fun hxe => hxe ▸ he
  cases hst : f.state with
  | free => exact absurd hst hbusy
  | pending =>
    obtain ⟨-, hholder, hhang, hwindow, hpreempt, hmark⟩ := (sound_pending_iff f hst).1 h
    exact (sound_pending_iff (f.joinedBy e) hst).2 ⟨hlow, hholder, hhang, hwindow, hpreempt, fun hm => hcalm (hmark hm)⟩
  | talk =>
    obtain ⟨-, hholder, hhang, hwindow, hpreempt⟩ := (sound_talk_iff f hst).1 h
    refine (sound_talk_iff (f.joinedBy e) hst).2 ⟨hlow, hholder, hhang, hwindow, hpreempt.trans (and_congr_right fun _ => ?_)⟩
    constructor
    · rintro ⟨x, hx, hemergency⟩
      exact ⟨x, (hmem x).2 (.inl hx), hemergency⟩
    · rintro ⟨x, hx, hemergency⟩
      rcases (hmem x).1 hx with hx | rfl
      · exact ⟨x, hx, hemergency⟩
      · exact nomatch he.symm.trans hemergency
  | hang =>
    obtain ⟨-, hholder, hmark, hhang, hwindow, hpreempt, hw⟩ := (sound_hang_iff f hst).1 h
    exact (sound_hang_iff (f.joinedBy e) hst).2 ⟨hlow, hholder, hmark, hhang, hwindow, hpreempt, hcalm hw⟩

/-! The claim against a talk (R104), the mark (R101), the start and the end of a talk (R73, R74, R83). -/

theorem sound_of_stirred_emergency {src : Source} (h : f.Stirred src) (hst : f.state = .pending ∨ f.state = .talk) (hmark : f.mark = true) :
    f.Sound := by
  have hm : f.mark ≠ false := by rw [hmark]; nofun
  rcases hst with hst | hst
  · obtain ⟨hholder, hhang, hwindow, hpreempt⟩ := h.pending hst
    exact (sound_pending_iff f hst).2 ⟨h.low, hholder, hhang, hwindow, hpreempt, fun hf => absurd hf hm⟩
  · obtain ⟨hholder, hhang, hwindow, hpreempt⟩ := h.talk hst
    exact (sound_talk_iff f hst).2 ⟨h.low, hholder, hhang, hwindow, fun hne => absurd (hpreempt hne) hm, fun hcond => absurd hcond.1 hm⟩

/-- A routine talk whose preempt timer runs while the claim waits. -/
theorem sound_of_stirred_preempt {src : Source} (h : f.Stirred src) (hst : f.state = .talk) (t : Timer) (hmark : f.mark = false)
    (ht : t ≠ none) : ({ f with preemptTimer := t } : FloorRec).Sound := by
  obtain ⟨hholder, hhang, hwindow, -⟩ := h.talk hst
  obtain ⟨e, he, -, hemergency⟩ := h.claims
  exact (sound_talk_iff { f with preemptTimer := t } hst).2
    ⟨h.low, hholder, hhang, hwindow, fun _ => ⟨hmark, e, he, hemergency⟩, fun _ => ht⟩

theorem marked_sound (h : f.Sound) (hst : f.state = .talk) : ({ f with mark := true, preemptTimer := none } : FloorRec).Sound := by
  obtain ⟨hlow, hholder, hhang, hwindow, -⟩ := (sound_talk_iff f hst).1 h
  exact (sound_talk_iff { f with mark := true, preemptTimer := none } hst).2
    ⟨hlow, hholder, hhang, hwindow, fun hne => absurd rfl hne, fun hcond => nomatch hcond.1⟩

theorem started_sound (h : f.Sound) (hst : f.state = .pending) : f.started.Sound := by
  obtain ⟨hlow, ⟨c, hholder⟩, hhang, -, hpreempt, hmark⟩ := (sound_pending_iff f hst).1 h
  refine (sound_talk_iff _ rfl).2
    ⟨hlow, fun hnone => (nomatch Eq.trans (Eq.symm hnone) hholder), hhang, rfl, fun hne => absurd hpreempt hne, ?_⟩
  rintro ⟨hm, e, he, hemergency⟩
  exact nomatch (hmark hm e he).symm.trans hemergency

theorem resumed_sound (h : f.Sound) (hst : f.state = .hang) (mark : Bool) :
    ({ f with state := .talk, hangTimer := none, mark := mark } : FloorRec).Sound := by
  obtain ⟨hlow, hholder, -, -, hwindow, hpreempt, hw⟩ := (sound_hang_iff f hst).1 h
  refine (sound_talk_iff _ rfl).2 ⟨hlow, hholder, rfl, hwindow, fun hne => absurd hpreempt hne, ?_⟩
  rintro ⟨-, e, he, hemergency⟩
  exact nomatch (hw e he).symm.trans hemergency

theorem hung_sound (h : f.Sound) (hst : f.state = .talk) (hw : ∀ e ∈ f.waiting, e.emergency = false) (n : Nat) :
    ({ f with state := .hang, mark := false, preemptTimer := none, hangTimer := some n } : FloorRec).Sound := by
  obtain ⟨hlow, hholder, -, hwindow, -⟩ := (sound_talk_iff f hst).1 h
  exact (sound_hang_iff _ rfl).2 ⟨hlow, hholder, rfl, nofun, hwindow, rfl, hw⟩

theorem floorTick_sound (h : f.Sound) : f.tick.Sound := by
  have hne (t : Timer) : tickTimer t ≠ none ↔ t ≠ none := not_congr (tickTimer_eq_none t)
  cases hst : f.state with
  | free =>
    rw [eq_reset_of_sound h hst]
    exact reset_sound
  | pending =>
    obtain ⟨hlow, hholder, hhang, hwindow, hpreempt, hmark⟩ := (sound_pending_iff f hst).1 h
    exact (sound_pending_iff f.tick hst).2
      ⟨hlow, hholder, (tickTimer_eq_none _).2 hhang, (hne _).2 hwindow, (tickTimer_eq_none _).2 hpreempt, hmark⟩
  | talk =>
    obtain ⟨hlow, hholder, hhang, hwindow, hpreempt⟩ := (sound_talk_iff f hst).1 h
    exact (sound_talk_iff f.tick hst).2
      ⟨hlow, hholder, (tickTimer_eq_none _).2 hhang, (tickTimer_eq_none _).2 hwindow, (hne _).trans hpreempt⟩
  | hang =>
    obtain ⟨hlow, hholder, hmark, hhang, hwindow, hpreempt, hw⟩ := (sound_hang_iff f hst).1 h
    exact (sound_hang_iff f.tick hst).2
      ⟨hlow, hholder, hmark, (hne _).2 hhang, (tickTimer_eq_none _).2 hwindow, (tickTimer_eq_none _).2 hpreempt, hw⟩

end sound

end Sys2Proof.Machine
end

section
/-!
PROOFS. Floors, consoles and radio ports of one group (O58, O60): what the two invariants say of a group, and that it holds again
whenever its floor has gone to a source or to FREE, has ended, or has got a claim.
-/

namespace Sys2Proof.Machine

/-! What is said of one group. -/

/-- What a floor says of a member of its group, but for an IDLE one (R13, R73, R92). -/
structure FloorRec.Fits (f : FloorRec) (p : PortNo) (r : PortRec) : Prop where
  source : r.state = .source ↔ f.state = .talk ∧ f.holder = some (.port p)
  parked : f.holder = some (.port p) → f.state = .hang → r.state = .idle
  waits : f.Lists (.port p) → r.state = .keyed ∧ r.carrier = true
  keyed : r.state = .keyed → f.state ≠ .free ∧ f.holder ≠ some (.port p)

/-- The consoles and ports of group `g` in line with its floor. A `late` member has joined without its report yet: it has no place
in the floor, and may be IDLE where the others are KEYED (R19, R79). -/
structure Part.PlaceSound (late : PortNo → Prop) (g : GroupNo) (d : Part) : Prop where
  empty : (d.group g).members = [] → (d.floor g).state = .free
  holds : ∀ c, (d.console c).involvement = .holder g ↔ (d.floor g).holder = some (.console c)
  queued : ∀ c, (d.console c).involvement = .waiter g ↔ (d.floor g).Lists (.console c)
  holder : ∀ p, (d.floor g).holder = some (.port p) → p ∈ (d.group g).members ∧ ¬ late p
  waiter : ∀ p, (d.floor g).Lists (.port p) → p ∈ (d.group g).members ∧ ¬ late p
  fits : ∀ p ∈ (d.group g).members, (d.floor g).Fits p (d.port p)
  idle : ∀ p ∈ (d.group g).members, ¬ late p → (d.port p).state = .idle →
    (d.floor g).state = .free ∨ (d.floor g).holder = some (.port p)
  nodup : ((d.floor g).waiting.map fun e => e.source).Nodup

/-- What the invariants of the floors and of the ports say of group `g`. -/
def Part.GroupSound (late : PortNo → Prop) (g : GroupNo) (d : Part) : Prop := (d.floor g).Sound ∧ d.PlaceSound late g

/-- Every group is sound, a port of no group is neither KEYED nor SOURCE, and no port is in two groups. -/
structure Part.Placed (late : PortNo → Prop) (d : Part) : Prop where
  group : ∀ g, d.GroupSound late g
  loose : ∀ p, (∀ g, p ∉ (d.group g).members) → (d.port p).state ≠ .keyed ∧ (d.port p).state ≠ .source
  one : ∀ g h p, p ∈ (d.group g).members → p ∈ (d.group h).members → g = h

/-- From `d` to `t` nothing that is said of another group than `g` changes, nor a port that is no member of `g`. -/
structure Part.Within (g : GroupNo) (d t : Part) : Prop where
  floor : ∀ k, k ≠ g → t.floor k = d.floor k
  members : ∀ k, k ≠ g → (t.group k).members = (d.group k).members
  holds : ∀ k, k ≠ g → ∀ c, (t.console c).involvement = .holder k ↔ (d.console c).involvement = .holder k
  queued : ∀ k, k ≠ g → ∀ c, (t.console c).involvement = .waiter k ↔ (d.console c).involvement = .waiter k
  port : ∀ p, p ∉ (d.group g).members → t.port p = d.port p

/-- From `d` to `t` something happens within group `g`, its members stay, and the group is sound. -/
structure Part.Settles (late : PortNo → Prop) (g : GroupNo) (d t : Part) : Prop where
  sound : t.GroupSound late g
  within : d.Within g t
  same : (t.group g).members = (d.group g).members

section within
variable {late : PortNo → Prop} {g : GroupNo} {d e t : Part}

theorem Part.Within.refl (g : GroupNo) (d : Part) : d.Within g d :=
  ⟨fun _ _ => rfl, fun _ _ => rfl, fun _ _ _ => Iff.rfl, fun _ _ _ => Iff.rfl, fun _ _ => rfl⟩

theorem Part.Within.trans (h : d.Within g e) (hmembers : ∀ p ∈ (e.group g).members, p ∈ (d.group g).members) (h' : e.Within g t) :
    d.Within g t :=
  ⟨fun k hk => (h'.floor k hk).trans (h.floor k hk), fun k hk => (h'.members k hk).trans (h.members k hk),
    fun k hk c => (h'.holds k hk c).trans (h.holds k hk c), fun k hk c => (h'.queued k hk c).trans (h.queued k hk c),
    fun p hp => (h'.port p (mt (hmembers p) hp)).trans (h.port p hp)⟩

theorem within_modFloor (d : Part) (g : GroupNo) (k : FloorRec → FloorRec) : d.Within g (d.modFloor g k) :=
  ⟨fun k hk => by rw [modFloor_floor, if_neg hk], fun _ _ => rfl, fun _ _ _ => Iff.rfl, fun _ _ _ => Iff.rfl, fun _ _ => rfl⟩

theorem within_modPort {p : PortNo} (hp : p ∈ (d.group g).members) (f : PortRec → PortRec) : d.Within g (d.modPort p f) :=
  ⟨fun _ _ => rfl, fun _ _ => rfl, fun _ _ _ => Iff.rfl, fun _ _ _ => Iff.rfl,
    fun q hq => by rw [modPort_port, if_neg]; rintro rfl; exact hq hp⟩

/-- A console whose involvement is with group `g`, or none, before and after. -/
theorem within_modConsole {c : CtlNo} {i : Involvement}
    (hbefore : ∀ k, k ≠ g → (d.console c).involvement ≠ .holder k ∧ (d.console c).involvement ≠ .waiter k)
    (hafter : ∀ k, k ≠ g → i ≠ .holder k ∧ i ≠ .waiter k) : d.Within g (d.modConsole c fun r => { r with involvement := i }) := by
  refine ⟨fun _ _ => rfl, fun _ _ => rfl, fun k hk r => ?_, fun k hk r => ?_, fun _ _ => rfl⟩
  all_goals
    rw [modConsole_console]
    split
    · next hr =>
      subst hr
      obtain ⟨hholder, hwaiter⟩ := hbefore k hk
      obtain ⟨hholder', hwaiter'⟩ := hafter k hk
      exact iff_of_false (by assumption) (by assumption)
    · exact Iff.rfl

/-- Group `k` beside the one at work. -/
theorem Part.Within.groupSound (h : d.Within g t) {k : GroupNo} (hk : k ≠ g) (hother : ∀ p ∈ (d.group k).members, p ∉ (d.group g).members)
    (hd : d.GroupSound late k) : t.GroupSound late k := by
  obtain ⟨hfloor, hplace⟩ := hd
  have hmembers := h.members k hk
  have hport (p : PortNo) (hp : p ∈ (d.group k).members) : t.port p = d.port p := h.port p (hother p hp)
  refine ⟨by rwa [h.floor k hk], ?_⟩
  refine ⟨?_, fun c => ?_, fun c => ?_, fun p => ?_, fun p => ?_, fun p hp => ?_, fun p hp => ?_, ?_⟩
  · rw [hmembers, h.floor k hk]; exact hplace.empty
  · rw [h.holds k hk, h.floor k hk]; exact hplace.holds c
  · rw [h.queued k hk, h.floor k hk]; exact hplace.queued c
  · rw [hmembers, h.floor k hk]; exact hplace.holder p
  · rw [hmembers, h.floor k hk]; exact hplace.waiter p
  · rw [hmembers] at hp
    rw [h.floor k hk, hport p hp]
    exact hplace.fits p hp
  · rw [hmembers] at hp
    rw [h.floor k hk, hport p hp]
    exact hplace.idle p hp
  · rw [h.floor k hk]; exact hplace.nodup

/-- Something happens within one group, which may lose members that are neither KEYED nor SOURCE then. -/
theorem Part.Placed.settle (hd : d.Placed late) (hwithin : d.Within g t) (hsound : t.GroupSound late g)
    (hsub : ∀ p ∈ (t.group g).members, p ∈ (d.group g).members)
    (hloose : ∀ p ∈ (d.group g).members, p ∉ (t.group g).members → (t.port p).state ≠ .keyed ∧ (t.port p).state ≠ .source) :
    t.Placed late := by
  have hmem {k : GroupNo} {p : PortNo} (hp : p ∈ (t.group k).members) : p ∈ (d.group k).members := by
    by_cases hk : k = g
    · exact hk ▸ hsub p (hk ▸ hp)
    · rwa [hwithin.members k hk] at hp
  refine ⟨fun k => ?_, fun p hp => ?_, fun k h p hk hh => hd.one k h p (hmem hk) (hmem hh)⟩
  · by_cases hk : k = g
    · exact hk ▸ hsound
    · exact hwithin.groupSound hk (fun p hp hpg => hk (hd.one k g p hp hpg)) (hd.group k)
  · by_cases hpg : p ∈ (d.group g).members
    · exact hloose p hpg (hp g)
    · rw [hwithin.port p hpg]
      refine hd.loose p fun k => ?_
      by_cases hk : k = g
      · exact hk ▸ hpg
      · rw [← hwithin.members k hk]
        exact hp k

theorem Part.Settles.placed (h : d.Settles late g t) (hd : d.Placed late) : t.Placed late :=
  hd.settle h.within h.sound (fun _ hp => h.same ▸ hp) fun _ hp hnot => absurd (h.same.symm ▸ hp) hnot

/-- What led to the part that something happens to, within the same group. -/
theorem Part.Settles.after (h : e.Settles late g t) (hwithin : d.Within g e) (hsame : (e.group g).members = (d.group g).members) :
    d.Settles late g t :=
  ⟨h.sound, hwithin.trans (fun _ hp => hsame ▸ hp) h.within, h.same.trans hsame⟩

theorem Part.GroupSound.settles_refl (h : d.GroupSound late g) : d.Settles late g d := ⟨h, .refl g d, rfl⟩

theorem Part.Settles.told (h : d.Settles late g t) (ns : CtlNo → List Notice) : d.Settles late g (t.told ns) :=
  ⟨⟨h.sound.1, ⟨h.sound.2.empty, h.sound.2.holds, h.sound.2.queued, h.sound.2.holder, h.sound.2.waiter, h.sound.2.fits, h.sound.2.idle,
    h.sound.2.nodup⟩⟩, ⟨h.within.floor, h.within.members, h.within.holds, h.within.queued, h.within.port⟩, h.same⟩

end within

/-! The floor goes. -/

/-- The waiting list of group `g` with its consoles and ports, whatever becomes of the holder. -/
structure Part.ListSound (late : PortNo → Prop) (g : GroupNo) (d : Part) : Prop where
  formed : (d.group g).members ≠ []
  holds : ∀ c, (d.console c).involvement = .holder g ↔ (d.floor g).holder = some (.console c)
  queued : ∀ c, (d.console c).involvement = .waiter g ↔ (d.floor g).Lists (.console c)
  waiter : ∀ p, (d.floor g).Lists (.port p) →
    p ∈ (d.group g).members ∧ ¬ late p ∧ (d.port p).state = .keyed ∧ (d.port p).carrier = true
  nodup : ((d.floor g).waiting.map fun e => e.source).Nodup

/-- Group `g` is ready for its floor to go to the holder that record `f` names, or to FREE. -/
structure Part.Ready (late : PortNo → Prop) (g : GroupNo) (f : FloorRec) (d : Part) : Prop where
  sound : f.Sound
  unparked : f.state ≠ .hang
  formed : (d.group g).members ≠ []
  holds : ∀ c, (d.console c).involvement = .holder g ↔ (d.floor g).holder = some (.console c)
  winner : ∀ p, f.holder = some (.port p) →
    p ∈ (d.group g).members ∧ ¬ late p ∧ ((d.port p).state = .idle ∨ (d.port p).state = .keyed)
  console : ∀ c, f.holder = some (.console c) →
    ∀ k, k ≠ g → (d.console c).involvement ≠ .holder k ∧ (d.console c).involvement ≠ .waiter k
  waiter : ∀ p, f.Lists (.port p) → f.holder ≠ some (.port p) ∧
    p ∈ (d.group g).members ∧ ¬ late p ∧ (d.port p).state = .keyed ∧ (d.port p).carrier = true
  queued : ∀ c, f.Lists (.console c) ↔ (d.console c).involvement = .waiter g ∧ f.holder ≠ some (.console c)
  quiet : ∀ p ∈ (d.group g).members, f.holder ≠ some (.port p) → (d.port p).state ≠ .source
  nodup : (f.waiting.map fun e => e.source).Nodup

section ready
variable {late : PortNo → Prop} {g : GroupNo} {d t : Part}

theorem Part.PlaceSound.listSound (h : d.PlaceSound late g) (hformed : (d.group g).members ≠ []) : d.ListSound late g := by
  refine ⟨hformed, h.holds, h.queued, fun p hp => ?_, h.nodup⟩
  obtain ⟨hmem, hlate⟩ := h.waiter p hp
  exact ⟨hmem, hlate, (h.fits p hmem).waits hp⟩

/-- A port that does not wait changes. -/
theorem Part.ListSound.modPort (h : d.ListSound late g) {p : PortNo} (hp : ¬ (d.floor g).Lists (.port p)) (f : PortRec → PortRec) :
    (d.modPort p f).ListSound late g := by
  refine ⟨h.formed, h.holds, h.queued, fun q hq => ?_, h.nodup⟩
  rw [modPort_port, if_neg]
  · exact h.waiter q hq
  · rintro rfl
    exact hp hq

/-- The floor is given to a source that waits no longer. -/
theorem ready_givenTo (h : d.ListSound late g) {src : Source} {mark : Bool} {window : Nat} {ws : List Entry} {n : Nat}
    (hsound : (FloorRec.givenTo src mark window ws n).Sound)
    (hws : ∀ x, (∃ e ∈ ws, e.source = x) ↔ (d.floor g).Lists x ∧ x ≠ src) (hnodup : (ws.map fun e => e.source).Nodup)
    (hport : ∀ p, src = .port p → p ∈ (d.group g).members ∧ ¬ late p ∧ ((d.port p).state = .idle ∨ (d.port p).state = .keyed))
    (hconsole : ∀ c, src = .console c → ∀ k, k ≠ g → (d.console c).involvement ≠ .holder k ∧ (d.console c).involvement ≠ .waiter k)
    (hquiet : ∀ p ∈ (d.group g).members, src ≠ .port p → (d.port p).state ≠ .source) :
    d.Ready late g (FloorRec.givenTo src mark window ws n) := by
  obtain ⟨-, hholder⟩ := givenTo_busy src mark window ws n
  obtain ⟨hwaiting, -⟩ := givenTo_waiting src mark window ws n
  have hlists (x : Source) : (FloorRec.givenTo src mark window ws n).Lists x ↔ (d.floor g).Lists x ∧ x ≠ src := by
    unfold FloorRec.Lists
    rw [hwaiting]
    exact hws x
  have hsrc (x : Source) : (FloorRec.givenTo src mark window ws n).holder = some x ↔ src = x := by
    rw [hholder, Option.some_inj]
  refine ⟨hsound, ?_, h.formed, h.holds, fun p hp => hport p ((hsrc _).1 hp), fun c hc => hconsole c ((hsrc _).1 hc), fun p hp => ?_,
    fun c => ?_, fun p hp hne => hquiet p hp fun heq => hne ((hsrc _).2 heq), ?_⟩
  · cases src <;> nofun
  · obtain ⟨hp, hne⟩ := (hlists _).1 hp
    exact ⟨fun heq => hne ((hsrc _).1 heq).symm, h.waiter p hp⟩
  · rw [hlists, ← h.queued, ne_eq, ne_eq, hsrc]
    exact and_congr_right fun _ => not_congr eq_comm
  · rwa [hwaiting]

/-- The floor passes on where nobody talks any more. -/
theorem ready_passed (h : d.ListSound late g) (hquiet : ∀ p ∈ (d.group g).members, (d.port p).state ≠ .source) (window : Nat) :
    d.Ready late g ((d.floor g).passed window) := by
  unfold FloorRec.passed
  split
  · next hnone =>
    have hempty := grantDecision_eq_none hnone
    have hnobody (x : Source) : ¬ FloorRec.reset.Lists x := fun ⟨_, he, _⟩ => nomatch he
    refine ⟨reset_sound, nofun, h.formed, h.holds, nofun, nofun, fun p hp => absurd hp (hnobody _), fun c => ?_, fun p hp _ => hquiet p hp,
      List.nodup_nil⟩
    refine iff_of_false (hnobody _) fun hc => ?_
    obtain ⟨e, he, -⟩ := (h.queued c).1 hc.1
    rw [hempty] at he
    exact nomatch he
  · next e n hsome =>
    obtain ⟨hmem, hcalm⟩ := mem_of_grantDecision hsome
    have hlist : (d.floor g).Lists e.source := ⟨e, hmem, rfl⟩
    refine ready_givenTo h (givenTo_sound _ _ (countWith_eq_zero _) fun hroutine x hx => ?_) (fun x => listWithout_lists)
      (listWithout_nodup h.nodup) (fun p hp => ?_) (fun c hc k hk => ?_) fun p hp _ => hquiet p hp
    · exact hcalm hroutine x (mem_listWithout.1 hx).1
    · obtain ⟨hp', hlate, hkeyed, -⟩ := h.waiter p (hp ▸ hlist)
      exact ⟨hp', hlate, .inr hkeyed⟩
    · rw [(h.queued c).2 (hc ▸ hlist)]
      exact ⟨nofun, fun heq => hk (by injection heq with heq; exact heq.symm)⟩

/-- What the sweep of a floor that has gone makes of a member. -/
theorem fits_of_sweep {f : FloorRec} {p : PortNo} {r : PortRec} (hsound : f.Sound) (hholder : f.holder ≠ some (.port p))
    (hsource : r.state ≠ .source) (hwaits : f.Lists (.port p) → r.state = .keyed ∧ r.carrier = true) :
    f.Fits p (if f.holder = none then r.unkey else r.key) ∧
      ((if f.holder = none then r.unkey else r.key).state = .idle → f.state = .free) := by
  have hfree := holder_eq_none_iff hsound
  split
  · next hnone =>
    have hstate : r.unkey.state ≠ .keyed ∧ r.unkey.state ≠ .source := by
      unfold PortRec.unkey
      split
      · rw [goTo_state]; exact ⟨nofun, nofun⟩
      · next hne => exact ⟨hne, hsource⟩
    refine ⟨⟨iff_of_false hstate.2 fun h => hholder h.2, fun h => absurd h hholder, fun h => absurd (hfree.1 hnone) (busy_of_lists hsound h),
      fun h => absurd h hstate.1⟩, fun _ => hfree.1 hnone⟩
  · next hsome =>
    have hstate : r.key.state ≠ .idle ∧ r.key.state ≠ .source := by
      unfold PortRec.key
      split
      · rw [goTo_state]; exact ⟨nofun, nofun⟩
      · next hne => exact ⟨hne, hsource⟩
    refine ⟨⟨iff_of_false hstate.2 fun h => hholder h.2, fun h => absurd h hholder, fun h => ?_, fun _ => ⟨mt hfree.2 hsome, hholder⟩⟩,
      fun h => absurd h hstate.1⟩
    obtain ⟨hkeyed, hcarrier⟩ := hwaits h
    have hsame : r.key = r := if_neg (by rw [hkeyed]; nofun)
    rw [hsame]
    exact ⟨hkeyed, hcarrier⟩

theorem FloorGoes.settles {f : FloorRec} {ns : CtlNo → List Notice} (hgoes : d.FloorGoes t g f ns) (h : d.Ready late g f) :
    d.Settles late g t := by
  obtain ⟨hfloor, hport, hgroup, hconsole, -⟩ := hgoes
  have hf : t.floor g = f := (hfloor g).trans (if_pos rfl)
  have hmembers : (t.group g).members = (d.group g).members := by rw [hgroup, if_pos rfl]; rfl
  have hconsole' (c : CtlNo) : (t.console c).involvement =
      if f.holder = some (.console c) then .holder g
      else if (d.floor g).holder = some (.console c) then .none else (d.console c).involvement := by
    rw [hconsole]
    split
    · rfl
    · split <;> rfl
  have hgrant {p : PortNo} (hp : f.holder = some (.port p)) : (t.port p).state = .source ∧ f.state = .talk := by
    obtain ⟨-, -, hst⟩ := h.winner p hp
    rw [hport, if_pos hp, PortRec.grant, if_pos hst, goTo_state]
    exact ⟨rfl, (talk_or_hang_of_port h.sound hp).resolve_right h.unparked⟩
  have hsweep {p : PortNo} (hp : p ∈ (d.group g).members) (hne : f.holder ≠ some (.port p)) :
      f.Fits p (t.port p) ∧ ((t.port p).state = .idle → f.state = .free) := by
    rw [hport, if_neg hne, if_pos hp]
    exact fits_of_sweep h.sound hne (h.quiet p hp hne) fun hw => (h.waiter p hw).2.2.2
  refine ⟨⟨by rw [hf]; exact h.sound, ?_⟩, ?_, hmembers⟩
  · refine ⟨fun hnil => absurd (hmembers ▸ hnil) h.formed, fun c => ?_, fun c => ?_, fun p hp => ?_, fun p hp => ?_, fun p hp => ?_,
      fun p hp _ hidle => ?_, by rw [hf]; exact h.nodup⟩
    · rw [hconsole', hf]
      split
      · next hc => exact iff_of_true rfl hc
      · next hc =>
        split
        · exact iff_of_false nofun hc
        · next hold => exact iff_of_false (mt (h.holds c).1 hold) hc
    · rw [hconsole', hf, h.queued]
      split
      · next hc => exact iff_of_false nofun fun hboth => hboth.2 hc
      · next hc =>
        split
        · next hold => exact iff_of_false nofun fun hboth => nomatch hboth.1.symm.trans ((h.holds c).2 hold)
        · exact (and_iff_left hc).symm
    · rw [hf] at hp
      obtain ⟨hmem, hlate, -⟩ := h.winner p hp
      exact ⟨hmembers.symm ▸ hmem, hlate⟩
    · rw [hf] at hp
      obtain ⟨-, hmem, hlate, -⟩ := h.waiter p hp
      exact ⟨hmembers.symm ▸ hmem, hlate⟩
    · rw [hmembers] at hp
      rw [hf]
      by_cases hholder : f.holder = some (.port p)
      · obtain ⟨hsource, htalk⟩ := hgrant hholder
        refine ⟨iff_of_true hsource ⟨htalk, hholder⟩, fun _ hhang => absurd hhang h.unparked, fun hw => absurd hholder (h.waiter p hw).1,
          fun hkeyed => nomatch hsource.symm.trans hkeyed⟩
      · exact (hsweep hp hholder).1
    · rw [hmembers] at hp
      rw [hf]
      by_cases hholder : f.holder = some (.port p)
      · exact .inr hholder
      · exact .inl ((hsweep hp hholder).2 hidle)
  · refine ⟨fun k hk => (hfloor k).trans (if_neg hk), fun k hk => by rw [hgroup, if_neg hk], fun k hk c => ?_, fun k hk c => ?_,
      fun p hp => ?_⟩
    · rw [hconsole']
      split
      · next hc => exact iff_of_false (fun heq => hk (by injection heq with heq; exact heq.symm)) (h.console c hc k hk).1
      · split
        · next hold =>
          rw [(h.holds c).2 hold]
          exact iff_of_false nofun fun heq => hk (by injection heq with heq; exact heq.symm)
        · exact Iff.rfl
    · rw [hconsole']
      split
      · next hc => exact iff_of_false nofun (h.console c hc k hk).2
      · split
        · next hold =>
          rw [(h.holds c).2 hold]
          exact iff_of_false nofun nofun
        · exact Iff.rfl
    · rw [hport, if_neg fun hholder => hp (h.winner p hholder).1, if_neg hp]

end ready

end Sys2Proof.Machine
end

section
/-!
PROOFS. The operations of the arbiter on the floor of one group leave it sound (O58, O60): losses of a place, claims, preemption, ends
of talk, clearing.
-/

namespace Sys2Proof.Machine

section operations
variable {late : PortNo → Prop} {g : GroupNo} {d t : Part}

theorem ne_source_of_not_talk (h : d.PlaceSound late g) (hst : (d.floor g).state ≠ .talk) {p : PortNo} (hp : p ∈ (d.group g).members) :
    (d.port p).state ≠ .source := fun hsource => hst ((h.fits p hp).source.1 hsource).1

theorem ne_source_of_not_holder (h : d.PlaceSound late g) {p : PortNo} (hp : p ∈ (d.group g).members)
    (hne : (d.floor g).holder ≠ some (.port p)) : (d.port p).state ≠ .source := fun hsource => hne ((h.fits p hp).source.1 hsource).2

theorem formed_of_busy (h : d.PlaceSound late g) (hst : (d.floor g).state ≠ .free) : (d.group g).members ≠ [] := fun hnil =>
  hst (h.empty hnil)

/-! The floor record changes. -/

/-- State, holder and waiting sources stay. -/
theorem Part.PlaceSound.refloor (h : d.PlaceSound late g) {k : FloorRec → FloorRec} (hst : (k (d.floor g)).state = (d.floor g).state)
    (hholder : (k (d.floor g)).holder = (d.floor g).holder)
    (hwaiting : ((k (d.floor g)).waiting.map fun e => e.source) = (d.floor g).waiting.map fun e => e.source) :
    (d.modFloor g k).PlaceSound late g := by
  have hlists (x : Source) : (k (d.floor g)).Lists x ↔ (d.floor g).Lists x := by
    have hmem (f : FloorRec) : f.Lists x ↔ x ∈ f.waiting.map fun e => e.source := List.mem_map.symm
    rw [hmem, hmem, hwaiting]
  refine ⟨?_, fun c => ?_, fun c => ?_, fun p => ?_, fun p => ?_, fun p hp => ?_, fun p hp => ?_, ?_⟩
  · rw [modFloor_floor_self, hst]; exact h.empty
  · rw [modFloor_floor_self, hholder]; exact h.holds c
  · rw [modFloor_floor_self, hlists]; exact h.queued c
  · rw [modFloor_floor_self, hholder]; exact h.holder p
  · rw [modFloor_floor_self, hlists]; exact h.waiter p
  · rw [modFloor_floor_self]
    obtain ⟨hsource, hparked, hwaits, hkeyed⟩ := h.fits p hp
    exact ⟨by rw [hst, hholder]; exact hsource, by rw [hst, hholder]; exact hparked, fun hw => hwaits ((hlists _).1 hw),
      by rw [hst, hholder]; exact hkeyed⟩
  · rw [modFloor_floor_self, hst, hholder]; exact h.idle p hp
  · rw [modFloor_floor_self, hwaiting]; exact h.nodup

theorem Part.PlaceSound.settles_modFloor (h : d.PlaceSound late g) {k : FloorRec → FloorRec} (hsound : (k (d.floor g)).Sound)
    (hst : (k (d.floor g)).state = (d.floor g).state) (hholder : (k (d.floor g)).holder = (d.floor g).holder)
    (hwaiting : ((k (d.floor g)).waiting.map fun e => e.source) = (d.floor g).waiting.map fun e => e.source) :
    d.Settles late g (d.modFloor g k) :=
  ⟨⟨by rwa [modFloor_floor_self], h.refloor hst hholder hwaiting⟩, within_modFloor d g k, rfl⟩

/-! A port loses its place (R78, R80). -/

/-- Group `g` is sound but for port `p`, which is no member any more or acts as one without a place. -/
structure Part.Bystands (late : PortNo → Prop) (p : PortNo) (g : GroupNo) (d : Part) : Prop where
  sound : (d.floor g).Sound
  formed : (d.group g).members ≠ []
  holds : ∀ c, (d.console c).involvement = .holder g ↔ (d.floor g).holder = some (.console c)
  queued : ∀ c, (d.console c).involvement = .waiter g ↔ (d.floor g).Lists (.console c)
  holder : ∀ q, q ≠ p → (d.floor g).holder = some (.port q) → q ∈ (d.group g).members ∧ ¬ late q
  waiter : ∀ q, q ≠ p → (d.floor g).Lists (.port q) → q ∈ (d.group g).members ∧ ¬ late q
  fits : ∀ q ∈ (d.group g).members, q ≠ p → (d.floor g).Fits q (d.port q)
  idle : ∀ q ∈ (d.group g).members, q ≠ p → ¬ late q → (d.port q).state = .idle →
    (d.floor g).state = .free ∨ (d.floor g).holder = some (.port q)
  nodup : ((d.floor g).waiting.map fun e => e.source).Nodup
  port : p ∈ (d.group g).members → (d.port p).state ≠ .source ∧ (d.port p).state ≠ .idle ∧
    ((d.port p).state = .keyed → (d.floor g).state ≠ .free)
  once : (d.floor g).holder = some (.port p) → ¬ (d.floor g).Lists (.port p)

/-- A holder does not wait. -/
theorem not_lists_of_holder (h : d.GroupSound late g) {p : PortNo} (hp : (d.floor g).holder = some (.port p)) :
    ¬ (d.floor g).Lists (.port p) := fun hw => by
  obtain ⟨hmem, -⟩ := h.2.holder p hp
  have hfits := h.2.fits p hmem
  exact (hfits.keyed (hfits.waits hw).1).2 hp

/-- A sound group with one port changed. -/
theorem Part.GroupSound.bystands (h : d.GroupSound late g) {p : PortNo} (hp : p ∈ (d.group g).members) {f : PortRec → PortRec}
    (hport : (f (d.port p)).state ≠ .source ∧ (f (d.port p)).state ≠ .idle ∧
      ((f (d.port p)).state = .keyed → (d.floor g).state ≠ .free)) : (d.modPort p f).Bystands late p g := by
  obtain ⟨hsound, hplace⟩ := h
  refine ⟨hsound, List.ne_nil_of_mem hp, hplace.holds, hplace.queued, fun q _ => hplace.holder q, fun q _ => hplace.waiter q,
    fun q hq hne => ?_, fun q hq hne => ?_, hplace.nodup, fun _ => ?_, not_lists_of_holder ⟨hsound, hplace⟩⟩
  · rw [modPort_port, if_neg hne]
    exact hplace.fits q hq
  · rw [modPort_port, if_neg hne]
    exact hplace.idle q hq
  · rw [modPort_port, if_pos rfl]
    exact hport

theorem Part.Bystands.listSound {p : PortNo} (h : d.Bystands late p g) (hp : ¬ (d.floor g).Lists (.port p)) : d.ListSound late g := by
  refine ⟨h.formed, h.holds, h.queued, fun q hq => ?_, h.nodup⟩
  have hne : q ≠ p := by rintro rfl; exact hp hq
  obtain ⟨hmem, hlate⟩ := h.waiter q hne hq
  exact ⟨hmem, hlate, (h.fits q hmem hne).waits hq⟩

/-- With the port out of the list and not holder, the group is sound. -/
theorem Part.Bystands.leftBy_settles {p : PortNo} (h : d.Bystands late p g) (hp : (d.floor g).holder ≠ some (.port p)) :
    d.Settles late g (d.modFloor g (FloorRec.leftBy (.port p))) := by
  have hlists (x : Source) : ((d.floor g).leftBy (.port p)).Lists x ↔ (d.floor g).Lists x ∧ x ≠ .port p := leftBy_lists
  have hgone : ¬ ((d.floor g).leftBy (.port p)).Lists (.port p) := fun hw => ((hlists _).1 hw).2 rfl
  refine ⟨⟨by rw [modFloor_floor_self]; exact leftBy_sound _ h.sound, ?_⟩, within_modFloor d g _, rfl⟩
  refine ⟨fun hnil => absurd hnil h.formed, fun c => ?_, fun c => ?_, fun q hq => ?_, fun q hq => ?_, fun q hq => ?_, fun q hq hl => ?_, ?_⟩
  · rw [modFloor_floor_self]; exact h.holds c
  · rw [modFloor_floor_self, hlists]
    exact (h.queued c).trans (and_iff_left nofun).symm
  · rw [modFloor_floor_self] at hq
    exact h.holder q (by rintro rfl; exact hp hq) hq
  · rw [modFloor_floor_self, hlists] at hq
    exact h.waiter q (fun heq => hq.2 (heq ▸ rfl)) hq.1
  · rw [modFloor_floor_self]
    by_cases hne : q = p
    · subst hne
      obtain ⟨hsource, hidle, hkeyed⟩ := h.port hq
      exact ⟨iff_of_false hsource fun hboth => hp hboth.2, fun hholder => absurd hholder hp, fun hw => absurd hw hgone,
        fun hk => ⟨hkeyed hk, hp⟩⟩
    · obtain ⟨hsource, hparked, hwaits, hkeyed⟩ := h.fits q hq hne
      exact ⟨hsource, hparked, fun hw => hwaits ((hlists _).1 hw).1, hkeyed⟩
  · rw [modFloor_floor_self]
    by_cases hne : q = p
    · subst hne
      exact fun hidle => absurd hidle (h.port hq).2.1
    · exact h.idle q hq hne hl
  · rw [modFloor_floor_self]
    exact listWithout_nodup h.nodup

theorem losesPlace_settles {p : PortNo} {cause : FloorCause} (h : d.Bystands late p g) (hloses : d.LosesPlace t g p cause) :
    d.Settles late g t := by
  unfold Part.LosesPlace at hloses
  dsimp only at hloses
  split at hloses
  · next hholder =>
    refine FloorGoes.settles hloses (ready_passed (h.listSound (h.once hholder)) (fun q hq hsource => ?_) _)
    by_cases hne : q = p
    · exact (h.port (hne ▸ hq)).1 (hne ▸ hsource)
    · have hq' := ((h.fits q hq hne).source.1 hsource).2
      rw [hholder] at hq'
      injection hq' with hq'
      injection hq' with hq'
      exact hne hq'.symm
  · next hholder =>
    split at hloses
    · rw [hloses]
      exact h.leftBy_settles hholder
    · next hw =>
      rw [hloses]
      refine ⟨⟨h.sound, ?_⟩, .refl g d, rfl⟩
      have hleft (q : PortNo) (hq : (d.floor g).Lists (.port q)) : q ≠ p := by rintro rfl; exact hw hq
      refine ⟨fun hnil => absurd hnil h.formed, h.holds, h.queued, fun q hq => ?_, fun q hq => h.waiter q (hleft q hq) hq, fun q hq => ?_,
        fun q hq hl => ?_, h.nodup⟩
      · exact h.holder q (by rintro rfl; exact hholder hq) hq
      · by_cases hne : q = p
        · subst hne
          obtain ⟨hsource, -, hkeyed⟩ := h.port hq
          exact ⟨iff_of_false hsource fun hboth => hholder hboth.2, fun hh => absurd hh hholder, fun hlist => absurd hlist hw,
            fun hk => ⟨hkeyed hk, hholder⟩⟩
        · exact h.fits q hq hne
      · by_cases hne : q = p
        · subst hne
          exact fun hidle => absurd hidle (h.port hq).2.1
        · exact h.idle q hq hne hl

/-! Preemption and emergency claims (R98 to R105). -/

theorem cuts_settles {own : Option CtlNo} (h : d.PlaceSound late g) (hst : (d.floor g).state = .talk) (hcuts : d.Cuts t g own) :
    d.Settles late g t := by
  have hlist := h.listSound (formed_of_busy h (by rw [hst]; nofun))
  unfold Part.Cuts at hcuts
  dsimp only at hcuts
  split at hcuts
  · next p hholder =>
    obtain ⟨hp, -⟩ := h.holder p hholder
    have hfits := h.fits p hp
    have hsource : (d.port p).state = .source := hfits.source.2 ⟨hst, hholder⟩
    have hnot : ¬ (d.floor g).Lists (.port p) := fun hw => nomatch hsource.symm.trans (hfits.waits hw).1
    refine (FloorGoes.settles hcuts (ready_passed (hlist.modPort hnot _) (fun q hq => ?_) _)).after (within_modPort hp _) rfl
    rw [modPort_port]
    split
    · rw [PortRec.preempt, if_pos hsource]
      show ((d.port p).goTo .keyed).state ≠ .source
      rw [goTo_state]
      nofun
    · next hne =>
      refine ne_source_of_not_holder h hq ?_
      rw [hholder]
      intro heq
      injection heq with heq
      injection heq with heq
      exact hne heq.symm
  · next hnoport => exact FloorGoes.settles hcuts (ready_passed hlist (fun q hq => ne_source_of_not_holder h hq (hnoport q)) _)

theorem emergencyMeets_settles {src : Source} {own : Option CtlNo} (h : d.PlaceSound late g) (hstirred : (d.floor g).Stirred src)
    (hmeets : d.EmergencyMeets t g src own) : d.Settles late g t := by
  have hlist := h.listSound (formed_of_busy h hstirred.busy)
  obtain ⟨e, he, hsrc, -⟩ := hstirred.claims
  have hwaits : (d.floor g).Lists src := ⟨e, he, hsrc⟩
  have hready (hst : (d.floor g).state ≠ .talk) := ready_givenTo hlist (src := src) (mark := true)
    (window := (d.group g).settings.window) (n := countWith (listWithout src (d.floor g).waiting) (d.floor g).lowTurn)
    (givenTo_sound src _ (countWith_eq_zero _) nofun) (fun x => listWithout_lists) (listWithout_nodup h.nodup)
    (fun p hp => by
      obtain ⟨hmem, hlate, hkeyed, -⟩ := hlist.waiter p (hp ▸ hwaits)
      exact ⟨hmem, hlate, .inr hkeyed⟩)
    (fun c hc k hk => by
      rw [(h.queued c).2 (hc ▸ hwaits)]
      exact ⟨nofun, fun heq => hk (by injection heq with heq; exact heq.symm)⟩)
    (fun p hp _ => ne_source_of_not_talk h hst hp)
  unfold Part.EmergencyMeets at hmeets
  dsimp only at hmeets
  split at hmeets
  · next hst => exact absurd hst hstirred.busy
  · next hst =>
    split at hmeets
    · next hmark =>
      rw [hmeets]
      exact Part.GroupSound.settles_refl ⟨sound_of_stirred_emergency hstirred (.inl hst) hmark, h⟩
    · exact FloorGoes.settles hmeets (hready (by rw [hst]; nofun))
  · next hst => exact FloorGoes.settles hmeets (hready (by rw [hst]; nofun))
  · next hst =>
    split at hmeets
    · next hstays =>
      rw [hmeets]
      refine Part.GroupSound.settles_refl ⟨?_, h⟩
      cases hmark : (d.floor g).mark with
      | true => exact sound_of_stirred_emergency hstirred (.inr hst) hmark
      | false =>
        have hruns := hstays.resolve_left (by rw [hmark]; nofun)
        exact sound_of_stirred_preempt hstirred hst _ hmark hruns
    · next hroutine =>
      split at hmeets
      · exact cuts_settles h hst hmeets
      · rw [hmeets]
        have hmark : (d.floor g).mark = false := Bool.eq_false_iff.2 fun hm => hroutine (.inl hm)
        exact h.settles_modFloor (sound_of_stirred_preempt hstirred hst _ hmark nofun) rfl rfl rfl

/-! Claims (R73, R81, R92, R93). -/

/-- The source may join the waiting list of group `g`. -/
def Part.MayWait (late : PortNo → Prop) (g : GroupNo) (d : Part) : Source → Prop
  | .port p => p ∈ (d.group g).members ∧ ¬ late p ∧ (d.port p).state = .keyed ∧ (d.port p).carrier = true
  | .console c => (d.console c).involvement = .none

theorem joined_floor (d : Part) (g : GroupNo) (e : Entry) : (d.joined g e).floor g = (d.floor g).joinedBy e := by
  unfold Part.joined
  cases e.source <;> exact modFloor_floor_self ..

theorem joined_rest (d : Part) (g : GroupNo) (e : Entry) :
    ((d.joined g e).group g).members = (d.group g).members ∧ ∀ p, (d.joined g e).port p = d.port p := by
  unfold Part.joined
  cases e.source <;> exact ⟨rfl, fun _ => rfl⟩

theorem joined_involvement (d : Part) (g : GroupNo) (e : Entry) (c : CtlNo) :
    ((d.joined g e).console c).involvement = if e.source = .console c then .waiter g else (d.console c).involvement := by
  unfold Part.joined
  cases hsrc : e.source with
  | port p => exact (if_neg nofun).symm
  | console k =>
    dsimp only
    rw [modConsole_console]
    by_cases hc : c = k
    · rw [if_pos hc, if_pos (by rw [hc])]
    · rw [if_neg hc, if_neg fun heq => hc (by injection heq with heq; exact heq.symm)]
      rfl

theorem joined_within {e : Entry} (hmay : d.MayWait late g e.source) : d.Within g (d.joined g e) := by
  have hinv := joined_involvement d g e
  have hnone (c : CtlNo) (hc : e.source = .console c) : (d.console c).involvement = .none := by rwa [hc] at hmay
  refine ⟨fun k hk => ?_, fun k hk => ?_, fun k hk c => ?_, fun k hk c => ?_, fun p _ => (joined_rest d g e).2 p⟩
  · unfold Part.joined
    cases e.source <;> exact (within_modFloor d g _).floor k hk
  · unfold Part.joined
    cases e.source <;> rfl
  · rw [hinv]
    split
    · next hc => rw [hnone c hc]; exact iff_of_false nofun nofun
    · exact Iff.rfl
  · rw [hinv]
    split
    · next hc => rw [hnone c hc]; exact iff_of_false (fun heq => hk (by injection heq with heq; exact heq.symm)) nofun
    · exact Iff.rfl

theorem joined_placeSound {e : Entry} (h : d.PlaceSound late g) (hbusy : (d.floor g).state ≠ .free) (hmay : d.MayWait late g e.source)
    (hnew : ¬ (d.floor g).Lists e.source) : (d.joined g e).PlaceSound late g := by
  have hfloor := joined_floor d g e
  obtain ⟨hmembers, hport⟩ := joined_rest d g e
  have hinv := joined_involvement d g e
  have hlists (x : Source) : ((d.joined g e).floor g).Lists x ↔ (d.floor g).Lists x ∨ x = e.source := by
    rw [hfloor]
    exact joinedBy_lists
  have hnone (c : CtlNo) (hc : e.source = .console c) : (d.console c).involvement = .none := by rwa [hc] at hmay
  have hkeyed (p : PortNo) (hp : e.source = .port p) :
      p ∈ (d.group g).members ∧ ¬ late p ∧ (d.port p).state = .keyed ∧ (d.port p).carrier = true := by rwa [hp] at hmay
  have hholder : ((d.joined g e).floor g).holder = (d.floor g).holder := by rw [hfloor]; rfl
  have hstate : ((d.joined g e).floor g).state = (d.floor g).state := by rw [hfloor]; rfl
  refine ⟨fun hnil => absurd (hmembers ▸ hnil) (formed_of_busy h hbusy), fun c => ?_, fun c => ?_, fun p hp => ?_, fun p hp => ?_,
    fun p hp => ?_, fun p hp => ?_, ?_⟩
  · rw [hinv, hholder]
    split
    · next hc => exact iff_of_false nofun fun hh => nomatch (hnone c hc).symm.trans ((h.holds c).2 hh)
    · exact h.holds c
  · rw [hinv, hlists]
    split
    · next hc => exact iff_of_true rfl (.inr hc.symm)
    · next hc => exact (h.queued c).trans (or_iff_left fun heq => hc heq.symm).symm
  · rw [hholder] at hp
    rw [hmembers]
    exact h.holder p hp
  · rw [hmembers]
    rcases (hlists _).1 hp with hp | hp
    · exact h.waiter p hp
    · exact ⟨(hkeyed p hp.symm).1, (hkeyed p hp.symm).2.1⟩
  · rw [hmembers] at hp
    rw [hport]
    obtain ⟨hsource, hparked, hwaits, hk⟩ := h.fits p hp
    refine ⟨by rw [hstate, hholder]; exact hsource, by rw [hstate, hholder]; exact hparked, fun hw => ?_, by rw [hstate, hholder]; exact hk⟩
    rcases (hlists _).1 hw with hw | hw
    · exact hwaits hw
    · exact (hkeyed p hw.symm).2.2
  · rw [hmembers] at hp
    rw [hport, hstate, hholder]
    exact h.idle p hp
  · rw [hfloor]
    unfold FloorRec.joinedBy
    rw [List.map_append, List.map_singleton, List.nodup_append]
    refine ⟨h.nodup, List.nodup_singleton _, fun x hx y hy hxy => ?_⟩
    rw [List.mem_singleton] at hy
    obtain ⟨e', he', rfl⟩ := List.mem_map.1 hx
    exact hnew ⟨e', he', hxy.trans hy⟩

theorem claimsBusy_settles {e : Entry} {own : Option CtlNo} (h : d.GroupSound late g) (hbusy : (d.floor g).state ≠ .free)
    (hmay : d.MayWait late g e.source) (hnew : ¬ (d.floor g).Lists e.source) (hclaims : d.ClaimsBusy t g e own) : d.Settles late g t := by
  have hplace := joined_placeSound h.2 hbusy hmay hnew
  have hwithin := joined_within hmay
  have hsame := (joined_rest d g e).1
  have hfloor := joined_floor d g e
  unfold Part.ClaimsBusy at hclaims
  split at hclaims
  · next hemergency =>
    have hstirred : ((d.joined g e).floor g).Stirred e.source := by
      rw [hfloor]
      exact stirred_of_sound h.1 hbusy (fun hne x hx => hne x (List.mem_append_left _ hx))
        ⟨e, List.mem_append_right _ List.mem_cons_self, rfl, hemergency⟩
    exact (emergencyMeets_settles hplace hstirred hclaims).after hwithin hsame
  · next hroutine =>
    rw [hclaims]
    refine ⟨⟨?_, hplace⟩, hwithin, hsame⟩
    rw [hfloor]
    exact joinedBy_sound h.1 hbusy (Bool.eq_false_iff.2 hroutine)

/-- The floor of a FREE group is given to a member or a console (R73, R81). -/
theorem grantFromFree_settles (h : d.GroupSound late g) (hfree : (d.floor g).state = .free) (hformed : (d.group g).members ≠ [])
    {src : Source} (hport : ∀ p, src = .port p → p ∈ (d.group g).members ∧ ¬ late p ∧
      ((d.port p).state = .idle ∨ (d.port p).state = .keyed))
    (hconsole : ∀ c, src = .console c → (d.console c).involvement = .none) {mark : Bool} {window : Nat} {ns : CtlNo → List Notice}
    (hgoes : d.FloorGoes t g (FloorRec.givenTo src mark window (d.floor g).waiting (d.floor g).lowTurn) ns) : d.Settles late g t := by
  have hreset := eq_reset_of_sound h.1 hfree
  have hnobody (x : Source) : ¬ (d.floor g).Lists x := by
    rw [hreset]
    exact fun ⟨_, he, _⟩ => nomatch he
  refine FloorGoes.settles hgoes (ready_givenTo (h.2.listSound hformed) (givenTo_sound src window ?_ fun _ => ?_) (fun x => ?_) h.2.nodup
    hport (fun c hc k _ => by rw [hconsole c hc]; exact ⟨nofun, nofun⟩) fun p hp _ => ?_)
  · rw [hreset]; exact fun _ => rfl
  · rw [hreset]; exact fun _ he => nomatch he
  · exact iff_of_false (hnobody x) fun hx => hnobody x hx.1
  · exact ne_source_of_not_talk h.2 (by rw [hfree]; nofun) hp

/-- The record of a floor that its parked holder takes back (R73, R81). -/
def FloorRec.resumed (mark : Bool) (f : FloorRec) : FloorRec := { f with state := .talk, hangTimer := none, mark := mark }

/-- The parked holder takes its floor back; a radio port is granted. -/
theorem resumed_settles (h : d.GroupSound late g) (hhang : (d.floor g).state = .hang) (mark : Bool) (hwithin : d.Within g t)
    (hfloor : t.floor g = (d.floor g).resumed mark) (hgroup : t.group g = d.group g) (hconsole : ∀ c, t.console c = d.console c)
    (hport : ∀ p, t.port p = if (d.floor g).holder = some (.port p) then (d.port p).grant else d.port p) : d.Settles late g t := by
  obtain ⟨hsound, hplace⟩ := h
  have hbusy : (d.floor g).state ≠ .free := by rw [hhang]; nofun
  have hnotalk : (d.floor g).state ≠ .talk := by rw [hhang]; nofun
  refine ⟨⟨by rw [hfloor]; exact resumed_sound hsound hhang mark, ?_⟩, hwithin, by rw [hgroup]⟩
  refine ⟨fun hnil => absurd (hgroup ▸ hnil) (formed_of_busy hplace hbusy), fun c => ?_, fun c => ?_, fun p hp => ?_, fun p hp => ?_,
    fun p hp => ?_, fun p hp hlate hidle => ?_, by rw [hfloor]; exact hplace.nodup⟩
  · rw [hconsole, hfloor]; exact hplace.holds c
  · rw [hconsole, hfloor]; exact hplace.queued c
  · rw [hfloor] at hp
    rw [hgroup]
    exact hplace.holder p hp
  · rw [hfloor] at hp
    rw [hgroup]
    exact hplace.waiter p hp
  · rw [hgroup] at hp
    rw [hport, hfloor]
    by_cases hholder : (d.floor g).holder = some (.port p)
    · have hsource : (d.port p).grant.state = .source := by
        rw [PortRec.grant, if_pos (.inl ((hplace.fits p hp).parked hholder hhang)), goTo_state]
      rw [if_pos hholder]
      exact ⟨iff_of_true hsource ⟨rfl, hholder⟩, fun _ => nofun, fun hw => absurd hw (not_lists_of_holder ⟨hsound, hplace⟩ hholder),
        fun hkeyed => nomatch hsource.symm.trans hkeyed⟩
    · rw [if_neg hholder]
      obtain ⟨hsource, -, hwaits, -⟩ := hplace.fits p hp
      exact ⟨iff_of_false (fun hs => hnotalk (hsource.1 hs).1) fun hboth => hholder hboth.2, fun hh => absurd hh hholder, hwaits,
        fun _ => ⟨nofun, hholder⟩⟩
  · rw [hgroup] at hp
    rw [hfloor]
    rw [hport] at hidle
    by_cases hholder : (d.floor g).holder = some (.port p)
    · exact .inr hholder
    · rw [if_neg hholder] at hidle
      exact .inr ((hplace.idle p hp hlate hidle).resolve_left hbusy)

/-- A member with a carrier and no place requests the floor (R73). -/
theorem requests_settles {p : PortNo} (h : d.GroupSound late g) (hp : p ∈ (d.group g).members) (hlate : ¬ late p)
    (hcarrier : (d.port p).carrier = true) (hnew : ¬ (d.floor g).Lists (.port p))
    (hstate : (d.port p).state = .idle ∨ (d.port p).state = .keyed) (hreq : d.Requests t g p) : d.Settles late g t := by
  unfold Part.Requests at hreq
  dsimp only at hreq
  split at hreq
  · next hfree =>
    refine grantFromFree_settles (src := .port p) h hfree (List.ne_nil_of_mem hp) (fun q hq => ?_) (fun _ h => nomatch h) hreq
    injection hq with hq
    subst hq
    exact ⟨hp, hlate, hstate⟩
  · next hbusy =>
    split at hreq
    · next hparked =>
      obtain ⟨hhang, hholder⟩ := hparked
      rw [hreq]
      refine Part.Settles.told (resumed_settles h hhang (d.port p).emergency ((within_modFloor d g _).trans (fun _ hq => hq)
        (within_modPort (d := d.modFloor g _) hp _)) (modFloor_floor_self ..) rfl (fun _ => rfl) fun q => ?_) _
      rw [modPort_port]
      by_cases hq : q = p
      · rw [if_pos hq, if_pos (by rw [hq, hholder]), hq]
        rfl
      · rw [if_neg hq, if_neg]
        · rfl
        · rw [hholder]
          exact fun heq => hq (by injection heq with heq; injection heq with heq; exact heq.symm)
    · next hunparked =>
      refine claimsBusy_settles (e := { source := .port p, srcClass := (d.port p).settings.srcClass, emergency := (d.port p).emergency }) h
        hbusy ⟨hp, hlate, hstate.resolve_left fun hidle => ?_, hcarrier⟩ hnew hreq
      have hholder := (h.2.idle p hp hlate hidle).resolve_left hbusy
      rcases talk_or_hang_of_port h.1 hholder with htalk | hhang
      · exact nomatch hidle.symm.trans ((h.2.fits p hp).source.2 ⟨htalk, hholder⟩)
      · exact hunparked ⟨hhang, hholder⟩

/-- A console that is in no floor, or is the parked holder of this one, requests the floor (R81). -/
theorem talkRequest_settles {c : CtlNo} (em : Bool) (h : d.GroupSound late g) (hformed : (d.group g).members ≠ [])
    (hcheck : (d.console c).involvement = .none ∨ (d.floor g).state = .hang ∧ (d.floor g).holder = some (.console c)) :
    d.Settles late g (d.talkRequest c g em).part := by
  by_cases hfree : (d.floor g).state = .free
  · rw [talkRequest_of_free hfree]
    refine grantFromFree_settles (src := .console c) h hfree hformed (fun _ h => nomatch h) (fun k hk => ?_) (grantFromFree_goes g _ _ d)
    injection hk with hk
    subst hk
    refine hcheck.resolve_right fun hparked => ?_
    exact nomatch hfree.symm.trans hparked.1
  · by_cases hparked : (d.floor g).state = .hang ∧ (d.floor g).holder = some (.console c)
    · rw [talkRequest_of_parked hparked.1 hparked.2]
      refine Part.Settles.told (resumed_settles h hparked.1 em (within_modFloor d g _) (modFloor_floor_self ..) rfl (fun _ => rfl)
        fun q => ?_) _
      rw [if_neg]
      · rfl
      · rw [hparked.2]
        nofun
    · rw [talkRequest_of_busy hfree hparked]
      have hnone := hcheck.resolve_right hparked
      refine claimsBusy_settles (e := { source := .console c, srcClass := (d.console c).srcClass, emergency := em }) h hfree hnone
        (fun hw => ?_) (busyClaim_claims g _ _ d)
      exact nomatch hnone.symm.trans ((h.2.queued c).2 hw)

/-! Ends of talk (R74, R78, R83 to R86). -/

theorem endsTalk_settles (hsound : (d.floor g).Sound) (htalk : (d.floor g).state = .talk) (hlist : d.ListSound late g)
    (hquiet : ∀ p ∈ (d.group g).members, (d.port p).state ≠ .source)
    (hholder : ∀ p, (d.floor g).holder = some (.port p) → p ∈ (d.group g).members ∧ ¬ late p ∧ (d.port p).state = .idle)
    (hidle : ∀ p ∈ (d.group g).members, ¬ late p → (d.port p).state = .idle → (d.floor g).holder = some (.port p))
    (hends : d.EndsTalk t g) : d.Settles late g t := by
  unfold Part.EndsTalk at hends
  dsimp only at hends
  split at hends
  · exact FloorGoes.settles hends (ready_passed hlist hquiet _)
  · next hhang =>
    rw [not_or] at hhang
    have hcalm : ∀ e ∈ (d.floor g).waiting, e.emergency = false := fun e he =>
      Bool.eq_false_iff.2 fun hem => hhang.1 ⟨e, he, hem⟩
    rw [hends]
    refine Part.Settles.told ⟨⟨by rw [modFloor_floor_self]; exact hung_sound hsound htalk hcalm _, ?_⟩, within_modFloor d g _, rfl⟩ _
    refine ⟨fun hnil => absurd hnil hlist.formed, fun c => ?_, fun c => ?_, fun p hp => ?_, fun p hp => ?_, fun p hp => ?_,
      fun p hp hlate hi => ?_, ?_⟩
    · rw [modFloor_floor_self]; exact hlist.holds c
    · rw [modFloor_floor_self]; exact hlist.queued c
    · rw [modFloor_floor_self] at hp
      obtain ⟨hmem, hlate, -⟩ := hholder p hp
      exact ⟨hmem, hlate⟩
    · rw [modFloor_floor_self] at hp
      obtain ⟨hmem, hlate, -⟩ := hlist.waiter p hp
      exact ⟨hmem, hlate⟩
    · rw [modFloor_floor_self]
      refine ⟨iff_of_false (hquiet p hp) fun hboth => (nomatch hboth.1), fun hh _ => (hholder p hh).2.2, fun hw => (hlist.waiter p hw).2.2,
        fun hkeyed => ⟨nofun, fun hh => ?_⟩⟩
      exact nomatch hkeyed.symm.trans (hholder p hh).2.2
    · rw [modFloor_floor_self]
      exact .inr (hidle p hp hlate hi)
    · rw [modFloor_floor_self]
      exact hlist.nodup

/-- A talker that is a console ends its talk. -/
theorem consoleEndsTalk_settles {c : CtlNo} (h : d.GroupSound late g) (htalk : (d.floor g).state = .talk)
    (hholder : (d.floor g).holder = some (.console c)) : d.Settles late g (d.normalEnd g) := by
  have hbusy : (d.floor g).state ≠ .free := by rw [htalk]; nofun
  have hnoport (p : PortNo) : (d.floor g).holder ≠ some (.port p) := by rw [hholder]; nofun
  exact endsTalk_settles h.1 htalk (h.2.listSound (formed_of_busy h.2 hbusy)) (fun p hp => ne_source_of_not_holder h.2 hp (hnoport p))
    (fun p hp => absurd hp (hnoport p)) (fun p hp hlate hidle => (h.2.idle p hp hlate hidle).resolve_left hbusy) (endsTalk_spec g d)

/-- The floor of a group with no radio talker passes on. -/
theorem passes_settles {ns : CtlNo → List Notice} (h : d.GroupSound late g) (hbusy : (d.floor g).state ≠ .free)
    (hholder : ∀ p, (d.floor g).holder = some (.port p) → (d.floor g).state ≠ .talk)
    (hgoes : d.FloorGoes t g ((d.floor g).passed (d.group g).settings.window) ns) : d.Settles late g t := by
  refine FloorGoes.settles hgoes (ready_passed (h.2.listSound (formed_of_busy h.2 hbusy)) (fun p hp hsource => ?_) _)
  obtain ⟨htalk, hp'⟩ := (h.2.fits p hp).source.1 hsource
  exact hholder p hp' htalk

/-- A waiting console leaves the list. -/
theorem leavesList_settles {c : CtlNo} (h : d.GroupSound late g) (hwaits : (d.console c).involvement = .waiter g) :
    d.Settles late g ((d.modFloor g (FloorRec.leftBy (.console c))).modConsole c fun r => { r with involvement := .none }) := by
  obtain ⟨hsound, hplace⟩ := h
  have hlists (x : Source) : ((d.floor g).leftBy (.console c)).Lists x ↔ (d.floor g).Lists x ∧ x ≠ .console c := leftBy_lists
  have hfloor : ((d.modFloor g (FloorRec.leftBy (.console c))).modConsole c fun r => { r with involvement := .none }).floor g =
      (d.floor g).leftBy (.console c) := modFloor_floor_self ..
  refine ⟨⟨by rw [hfloor]; exact leftBy_sound _ hsound, ?_⟩, ?_, rfl⟩
  · refine ⟨fun hnil => by rw [hfloor]; exact hplace.empty hnil, fun k => ?_, fun k => ?_, fun p hp => ?_, fun p hp => ?_, fun p hp => ?_,
      fun p hp => ?_, ?_⟩
    · rw [hfloor, modConsole_console]
      split
      · next hk =>
        refine iff_of_false nofun fun hh => ?_
        exact nomatch hwaits.symm.trans ((hplace.holds c).2 (hk ▸ hh))
      · exact hplace.holds k
    · rw [hfloor, modConsole_console, hlists]
      split
      · next hk => exact iff_of_false nofun fun hw => hw.2 (hk ▸ rfl)
      · next hk =>
        refine (hplace.queued k).trans (and_iff_left fun heq => hk ?_).symm
        injection heq
    · rw [hfloor] at hp
      exact hplace.holder p hp
    · rw [hfloor, hlists] at hp
      exact hplace.waiter p hp.1
    · rw [hfloor]
      obtain ⟨hsource, hparked, hw, hkeyed⟩ := hplace.fits p hp
      exact ⟨hsource, hparked, fun hl => hw ((hlists _).1 hl).1, hkeyed⟩
    · rw [hfloor]
      exact hplace.idle p hp
    · rw [hfloor]
      exact listWithout_nodup hplace.nodup
  · refine (within_modFloor d g _).trans (fun _ hp => hp) (within_modConsole (fun k hk => ?_) fun _ _ => ⟨nofun, nofun⟩)
    show (d.console c).involvement ≠ _ ∧ (d.console c).involvement ≠ _
    rw [hwaits]
    exact ⟨nofun, fun heq => hk (by injection heq with heq; exact heq.symm)⟩

/-! The whole floor ends (R52, R80, R88). -/

theorem floorEnds_groupSound {e : Part} {ns : CtlNo → List Notice}
    (hholds : ∀ c, (e.console c).involvement = .holder g ↔ (e.floor g).holder = some (.console c))
    (hqueued : ∀ c, (e.console c).involvement = .waiter g ↔ (e.floor g).Lists (.console c)) (h : e.FloorEnds t g ns)
    (hport : ∀ p ∈ (e.group g).members, (t.port p).state ≠ .keyed ∧ (t.port p).state ≠ .source) : t.GroupSound late g := by
  obtain ⟨hfloor, hgroup, hconsole, -⟩ := h
  have hf : t.floor g = FloorRec.reset := (hfloor g).trans (if_pos rfl)
  have hout (c : CtlNo) : (t.console c).involvement ≠ .holder g ∧ (t.console c).involvement ≠ .waiter g := by
    rw [hconsole]
    split
    · exact ⟨nofun, nofun⟩
    · next hnot =>
      rw [not_or] at hnot
      exact ⟨mt (hholds c).1 hnot.1, mt (hqueued c).1 hnot.2⟩
  have hmembers : (t.group g).members = (e.group g).members := by rw [hgroup, if_pos rfl]; rfl
  have hnobody (x : Source) : ¬ FloorRec.reset.Lists x := fun ⟨_, he, _⟩ => nomatch he
  refine ⟨by rw [hf]; exact reset_sound, ?_⟩
  refine ⟨fun _ => by rw [hf]; rfl, fun c => ?_, fun c => ?_, fun p hp => ?_, fun p hp => ?_, fun p hp => ?_, fun p _ _ _ => ?_, ?_⟩
  · rw [hf]; exact iff_of_false (hout c).1 nofun
  · rw [hf]; exact iff_of_false (hout c).2 (hnobody _)
  · rw [hf] at hp; exact nomatch hp
  · rw [hf] at hp; exact absurd hp (hnobody _)
  · obtain ⟨hkeyed, hsource⟩ := hport p (hmembers ▸ hp)
    rw [hf]
    exact ⟨iff_of_false hsource fun hboth => (nomatch hboth.1), nofun, fun hw => absurd hw (hnobody _), fun hk => absurd hk hkeyed⟩
  · rw [hf]; exact .inl rfl
  · rw [hf]; exact List.nodup_nil

theorem floorEnds_within {e : Part} {ns : CtlNo → List Notice} (hwithin : d.Within g e)
    (hholds : ∀ c, (e.console c).involvement = .holder g ↔ (e.floor g).holder = some (.console c))
    (hqueued : ∀ c, (e.console c).involvement = .waiter g ↔ (e.floor g).Lists (.console c)) (h : e.FloorEnds t g ns)
    (hport : ∀ p, p ∉ (d.group g).members → t.port p = d.port p) : d.Within g t := by
  obtain ⟨hfloor, hgroup, hconsole, -⟩ := h
  have hkept {k : GroupNo} (hk : k ≠ g) (c : CtlNo) :
      ((t.console c).involvement = .holder k ↔ (e.console c).involvement = .holder k) ∧
        ((t.console c).involvement = .waiter k ↔ (e.console c).involvement = .waiter k) := by
    rw [hconsole]
    split
    · next hplace =>
      rcases hplace with hh | hw
      · rw [(hholds c).2 hh]
        exact ⟨iff_of_false nofun fun heq => hk (by injection heq with heq; exact heq.symm), iff_of_false nofun nofun⟩
      · rw [(hqueued c).2 hw]
        exact ⟨iff_of_false nofun nofun, iff_of_false nofun fun heq => hk (by injection heq with heq; exact heq.symm)⟩
    · exact ⟨Iff.rfl, Iff.rfl⟩
  refine ⟨fun k hk => ?_, fun k hk => ?_, fun k hk c => (hkept hk c).1.trans (hwithin.holds k hk c),
    fun k hk c => (hkept hk c).2.trans (hwithin.queued k hk c), hport⟩
  · rw [hfloor, if_neg hk]; exact hwithin.floor k hk
  · rw [hgroup, if_neg hk]; exact hwithin.members k hk

theorem unkey_state (r : PortRec) : r.unkey.state ≠ .keyed ∧ (r.state ≠ .source → r.unkey.state ≠ .source) := by
  unfold PortRec.unkey
  split
  · rw [goTo_state]; exact ⟨nofun, fun _ => nofun⟩
  · next hne => exact ⟨hne, id⟩

theorem strip_state (r : PortRec) : r.strip.state ≠ .source := by
  unfold PortRec.strip
  split
  · rw [PortRec.change, settle_state, startGuard_eq]
    nofun
  · assumption

theorem cleared_settles {lapse : LapseCause} {cause : FloorCause} (h : d.GroupSound late g) (hclear : d.FloorCleared t g lapse cause) :
    d.Settles late g t := by
  obtain ⟨hends, hport⟩ := hclear
  dsimp only at hport
  have hholder {p : PortNo} (hp : p ∉ (d.group g).members) : (d.floor g).holder ≠ some (.port p) := fun hh => hp (h.2.holder p hh).1
  refine ⟨floorEnds_groupSound h.2.holds h.2.queued hends fun p hp => ?_,
    floorEnds_within (.refl g d) h.2.holds h.2.queued hends fun p hp => ?_, by rw [hends.2.1, if_pos rfl]; rfl⟩
  · rw [hport, if_pos hp]
    refine ⟨(unkey_state _).1, (unkey_state _).2 ?_⟩
    split
    · exact strip_state _
    · next hne => exact ne_source_of_not_holder h.2 hp hne
  · rw [hport, if_neg hp, if_neg (hholder hp)]

end operations

end Sys2Proof.Machine
end

section
/-!
PROOFS. The radio ports' events and the floor timers keep floors, consoles and radio ports in line (O58, O60).
-/

namespace Sys2Proof.Machine

/-! What changes nothing that the floors are about. -/

/-- From `d` to `t` the floors keep state, holder and waiting list, groups their members, consoles their involvement, ports their
state, and waiting ports their carrier. -/
structure Part.Alike (d t : Part) : Prop where
  sound : ∀ g, (d.floor g).Sound → (t.floor g).Sound
  state : ∀ g, (t.floor g).state = (d.floor g).state
  holder : ∀ g, (t.floor g).holder = (d.floor g).holder
  waiting : ∀ g, (t.floor g).waiting = (d.floor g).waiting
  members : ∀ g, (t.group g).members = (d.group g).members
  involvement : ∀ c, (t.console c).involvement = (d.console c).involvement
  port : ∀ p, (t.port p).state = (d.port p).state
  carrier : ∀ g p, (d.floor g).Lists (.port p) → (d.port p).carrier = true → (t.port p).carrier = true

section alike
variable {late : PortNo → Prop} {d t : Part}

theorem Part.Alike.placed (h : d.Alike t) (hd : d.Placed late) : t.Placed late := by
  have hlists (g : GroupNo) (x : Source) : (t.floor g).Lists x ↔ (d.floor g).Lists x := by
    unfold FloorRec.Lists
    rw [h.waiting]
  refine ⟨fun g => ⟨h.sound g (hd.group g).1, ?_⟩, fun p hp => ?_, fun g k p hg hk => ?_⟩
  · obtain ⟨hempty, hholds, hqueued, hholder, hwaiter, hfits, hidle, hnodup⟩ := (hd.group g).2
    refine ⟨?_, fun c => ?_, fun c => ?_, fun p => ?_, fun p => ?_, fun p hp => ?_, fun p hp => ?_, ?_⟩
    · rw [h.members, h.state]; exact hempty
    · rw [h.involvement, h.holder]; exact hholds c
    · rw [h.involvement, hlists]; exact hqueued c
    · rw [h.members, h.holder]; exact hholder p
    · rw [h.members, hlists]; exact hwaiter p
    · rw [h.members] at hp
      obtain ⟨hsource, hparked, hwaits, hkeyed⟩ := hfits p hp
      refine ⟨by rw [h.port, h.state, h.holder]; exact hsource, by rw [h.port, h.state, h.holder]; exact hparked, fun hw => ?_,
        by rw [h.port, h.state, h.holder]; exact hkeyed⟩
      have hw' := (hlists g _).1 hw
      obtain ⟨hst, hcarrier⟩ := hwaits hw'
      exact ⟨(h.port p).trans hst, h.carrier g p hw' hcarrier⟩
    · rw [h.members] at hp
      rw [h.port, h.state, h.holder]
      exact hidle p hp
    · rw [h.waiting]; exact hnodup
  · rw [h.port]
    exact hd.loose p fun g => h.members g ▸ hp g
  · rw [h.members] at hg hk
    exact hd.one g k p hg hk

/-- Floors, members, involvement and ports stay. -/
theorem alike_of_same (hfloor : ∀ g, t.floor g = d.floor g) (hmembers : ∀ g, (t.group g).members = (d.group g).members)
    (hinv : ∀ c, (t.console c).involvement = (d.console c).involvement) (hport : ∀ p, t.port p = d.port p) : d.Alike t where
  sound g hs := by rwa [hfloor]
  state g := by rw [hfloor]
  holder g := by rw [hfloor]
  waiting g := by rw [hfloor]
  members := hmembers
  involvement := hinv
  port p := by rw [hport]
  carrier _ p _ hc := by rwa [hport]

theorem alike_modPort {p : PortNo} {f : PortRec → PortRec} (hstate : (f (d.port p)).state = (d.port p).state)
    (hcarrier : ∀ g, (d.floor g).Lists (.port p) → (d.port p).carrier = true → (f (d.port p)).carrier = true) :
    d.Alike (d.modPort p f) where
  sound _ hs := hs
  state _ := rfl
  holder _ := rfl
  waiting _ := rfl
  members _ := rfl
  involvement _ := rfl
  port q := by
    rw [modPort_port]
    split
    · next hq => rw [hq, hstate]
    · rfl
  carrier g q hw hc := by
    rw [modPort_port]
    split
    · next hq => subst hq; exact hcarrier g hw hc
    · exact hc

theorem Part.Placed.told (hd : d.Placed late) (ns : CtlNo → List Notice) : (d.told ns).Placed late :=
  (alike_of_same (fun _ => rfl) (fun _ => rfl) (fun _ => rfl) fun _ => rfl : d.Alike (d.told ns)).placed hd

end alike

/-! The group of a port. -/

section place
variable {late : PortNo → Prop} {g : GroupNo} {p : PortNo} {d t : Part}

theorem not_mem_of_groupOf (h : d.groupOf p = none) (g : GroupNo) : p ∉ (d.group g).members := by
  unfold Part.groupOf at h
  rw [List.find?_eq_none] at h
  intro hp
  exact h g (List.mem_finRange g) (List.contains_iff_mem.2 hp)

theorem Part.Placed.groupOf (hd : d.Placed late) (hp : p ∈ (d.group g).members) : d.groupOf p = some g := by
  cases h : d.groupOf p with
  | none => exact absurd hp (not_mem_of_groupOf h g)
  | some k => rw [hd.one k g p (mem_of_groupOf h) hp]

/-- A talking port is the holder of its group's floor. -/
theorem Part.Placed.talker (hd : d.Placed late) (hsource : (d.port p).state = .source) :
    ∃ g, d.groupOf p = some g ∧ (d.floor g).state = .talk ∧ (d.floor g).holder = some (.port p) := by
  cases h : d.groupOf p with
  | none => exact absurd hsource (hd.loose p (not_mem_of_groupOf h)).2
  | some g => exact ⟨g, rfl, ((hd.group g).2.fits p (mem_of_groupOf h)).source.1 hsource⟩

/-- A waiting port is a KEYED member with a carrier. -/
theorem Part.Placed.waits (hd : d.Placed late) (hw : (d.floor g).Lists (.port p)) :
    p ∈ (d.group g).members ∧ ¬ late p ∧ (d.port p).state = .keyed ∧ (d.port p).carrier = true := by
  obtain ⟨hmem, hlate⟩ := (hd.group g).2.waiter p hw
  exact ⟨hmem, hlate, ((hd.group g).2.fits p hmem).waits hw⟩

/-! A port goes out of service or comes back. -/

/-- Out of service (R5). -/
def PortState.Out (st : PortState) : Prop := st = .offline ∨ st = .cooldown ∨ st = .latched

theorem PortState.Out.inactive {st : PortState} (h : st.Out) : st ≠ .source ∧ st ≠ .idle ∧ st ≠ .keyed := by
  rcases h with rfl | rfl | rfl <;> exact ⟨nofun, nofun, nofun⟩

theorem Part.Bystands.told (h : d.Bystands late p g) (ns : CtlNo → List Notice) : (d.told ns).Bystands late p g :=
  ⟨h.sound, h.formed, h.holds, h.queued, h.holder, h.waiter, h.fits, h.idle, h.nodup, h.port, h.once⟩

theorem Part.Within.told (h : d.Within g t) (ns : CtlNo → List Notice) : d.Within g (t.told ns) :=
  ⟨h.floor, h.members, h.holds, h.queued, h.port⟩

/-- A port record changes: what is to be shown of it. -/
theorem Part.Placed.modPort (hd : d.Placed late) {f : PortRec → PortRec}
    (hgroup : ∀ g, p ∈ (d.group g).members → (d.floor g).Fits p (f (d.port p)) ∧
      (¬ late p → (f (d.port p)).state = .idle → (d.floor g).state = .free ∨ (d.floor g).holder = some (.port p)))
    (hloose : (∀ g, p ∉ (d.group g).members) → (f (d.port p)).state ≠ .keyed ∧ (f (d.port p)).state ≠ .source) :
    (d.modPort p f).Placed late := by
  refine ⟨fun g => ⟨(hd.group g).1, ?_⟩, fun q hq => ?_, hd.one⟩
  · obtain ⟨hempty, hholds, hqueued, hholder, hwaiter, hfits, hidle, hnodup⟩ := (hd.group g).2
    refine ⟨hempty, hholds, hqueued, hholder, hwaiter, fun q hq => ?_, fun q hq => ?_, hnodup⟩
    · rw [modPort_port]
      split
      · next hqp => subst hqp; exact (hgroup g hq).1
      · exact hfits q hq
    · rw [modPort_port]
      split
      · next hqp => subst hqp; exact (hgroup g hq).2
      · exact hidle q hq
  · rw [modPort_port]
    split
    · next hqp => subst hqp; exact hloose hq
    · exact hd.loose q hq

/-- A port that is out of service is neither holder nor in a list. -/
theorem Part.Placed.absent (hd : d.Placed late) (hout : (d.port p).state.Out) (hp : p ∈ (d.group g).members) :
    (d.floor g).holder ≠ some (.port p) ∧ ¬ (d.floor g).Lists (.port p) := by
  obtain ⟨hsource, hidle, hkeyed⟩ := hout.inactive
  have hfits := (hd.group g).2.fits p hp
  refine ⟨fun hh => ?_, fun hw => hkeyed (hfits.waits hw).1⟩
  rcases talk_or_hang_of_port (hd.group g).1 hh with htalk | hhang
  · exact hsource (hfits.source.2 ⟨htalk, hh⟩)
  · exact hidle (hfits.parked hh hhang)

theorem Part.Placed.stateOnReturn (hd : d.Placed late) (hp : p ∈ (d.group g).members) (hholder : (d.floor g).holder ≠ some (.port p)) :
    d.stateOnReturn p = if (d.floor g).state = .free then .idle else .keyed := by
  unfold Part.stateOnReturn
  rw [hd.groupOf hp]
  simp only [or_iff_left hholder]

/-- A port out of service comes back with the state of the floor test, or stays out of service (R5, R7, R30, R33). -/
theorem Part.Placed.returns (hd : d.Placed late) (hout : (d.port p).state.Out) {f : PortRec → PortRec}
    (hstate : (f (d.port p)).state = d.stateOnReturn p ∨ (f (d.port p)).state.Out) : (d.modPort p f).Placed late := by
  refine hd.modPort (fun g hp => ?_) fun hloose => ?_
  · obtain ⟨hholder, hlist⟩ := hd.absent hout hp
    rw [hd.stateOnReturn hp hholder] at hstate
    by_cases hfree : (d.floor g).state = .free
    · rw [if_pos hfree] at hstate
      have hst : (f (d.port p)).state ≠ .keyed ∧ (f (d.port p)).state ≠ .source := by
        rcases hstate with hidle | ho
        · rw [hidle]; exact ⟨nofun, nofun⟩
        · exact ⟨ho.inactive.2.2, ho.inactive.1⟩
      exact ⟨⟨iff_of_false hst.2 fun hboth => hholder hboth.2, fun hh => absurd hh hholder, fun hw => absurd hw hlist,
        fun hkeyed => absurd hkeyed hst.1⟩, fun _ _ => .inl hfree⟩
    · rw [if_neg hfree] at hstate
      have hst : (f (d.port p)).state ≠ .idle ∧ (f (d.port p)).state ≠ .source := by
        rcases hstate with hkeyed | ho
        · rw [hkeyed]; exact ⟨nofun, nofun⟩
        · exact ⟨ho.inactive.2.1, ho.inactive.1⟩
      exact ⟨⟨iff_of_false hst.2 fun hboth => hholder hboth.2, fun hh => absurd hh hholder, fun hw => absurd hw hlist,
        fun _ => ⟨hfree, hholder⟩⟩, fun _ hidle => absurd hidle hst.1⟩
  · rcases hstate with hidle | ho
    · have hnone : d.groupOf p = none := by
        cases h : d.groupOf p with
        | none => rfl
        | some g => exact absurd (mem_of_groupOf h) (hloose g)
      unfold Part.stateOnReturn at hidle
      rw [hnone] at hidle
      rw [hidle]
      exact ⟨nofun, nofun⟩
    · exact ⟨ho.inactive.2.2, ho.inactive.1⟩

/-- A port goes out of service, and loses its place (R78). -/
theorem unavailable_placed (hd : d.Placed late) {f : PortRec → PortRec} (hout : (f (d.port p)).state.Out) (ns : CtlNo → List Notice)
    (h : ((d.modPort p f).told ns).BecomesUnavailable t p) : t.Placed late := by
  obtain ⟨hsource, hidle, hkeyed⟩ := hout.inactive
  unfold Part.BecomesUnavailable at h
  split at h
  · next hnone =>
    rw [h]
    exact (hd.modPort (fun g hp => absurd hp (not_mem_of_groupOf hnone g)) fun _ => ⟨hkeyed, hsource⟩).told ns
  · next g hsome =>
    have hp : p ∈ (d.group g).members := mem_of_groupOf hsome
    have hbystands := (hd.group g).bystands hp (f := f) ⟨hsource, hidle, fun hk => absurd hk hkeyed⟩
    exact ((losesPlace_settles (hbystands.told ns) h).after ((within_modPort hp f).told ns) rfl).placed hd

/-- The loss of a talking port takes its floor. -/
theorem sourceLost_unavailable (hd : d.Placed late) {f : PortRec → PortRec} (hsource : (d.port p).state = .source)
    {ns : CtlNo → List Notice} (h : ((d.modPort p f).told ns).SourceLost t p) :
    ((d.modPort p f).told ns).BecomesUnavailable t p := by
  obtain ⟨g, hgroup, -, hholder⟩ := hd.talker hsource
  have hsome : ((d.modPort p f).told ns).groupOf p = some g := hgroup
  unfold Part.SourceLost at h
  unfold Part.BecomesUnavailable
  rw [hsome] at h ⊢
  dsimp only at h ⊢
  rwa [told_floor, modPort_floor, if_pos hholder] at h

/-- A port that was out of service had no place to lose. -/
theorem unavailable_of_out (hd : d.Placed late) {f : PortRec → PortRec} (hout : (d.port p).state.Out) (ns : CtlNo → List Notice) :
    ((d.modPort p f).told ns).BecomesUnavailable ((d.modPort p f).told ns) p := by
  unfold Part.BecomesUnavailable
  split
  · rfl
  · next g hsome =>
    obtain ⟨hholder, hlist⟩ := hd.absent hout (mem_of_groupOf hsome : p ∈ (d.group g).members)
    unfold Part.LosesPlace
    dsimp only
    rw [told_floor, modPort_floor, if_neg hholder]
    split
    · next hw => exact absurd hw hlist
    · rfl

theorem reportLoss_unavailable (hd : d.Placed late) (f : PortRec → PortRec) (ns : CtlNo → List Notice) :
    ((d.modPort p f).told ns).BecomesUnavailable (((d.modPort p f).told ns).reportLoss (d.port p).state p) p := by
  unfold Part.reportLoss
  split
  · next hst => exact sourceLost_unavailable hd hst (sourceLost_spec p _)
  · exact memberUnavailable_spec p _
  · exact memberUnavailable_spec p _
  · next hst => exact unavailable_of_out hd (.inl hst) ns
  · next hst => exact unavailable_of_out hd (.inr (.inl hst)) ns
  · next hst => exact unavailable_of_out hd (.inr (.inr hst)) ns

/-- A radio talker ends its talk when its carrier drops (R14). -/
theorem talkerDrops_placed (hd : d.Placed late) {f : PortRec → PortRec} (hstate : (f (d.port p)).state = (d.port p).state)
    (hsource : (d.port p).state = .source) (ns : CtlNo → List Notice) (hp : p ∈ (d.group g).members) (htalk : (d.floor g).state = .talk)
    (hholder : (d.floor g).holder = some (.port p)) (h : (((d.modPort p f).told ns).modPort p PortRec.endTalk).EndsTalk t g) :
    t.Placed late := by
  have hplace := (hd.group g).2
  have hother (q : PortNo) (hq : q ≠ p) : (((d.modPort p f).told ns).modPort p PortRec.endTalk).port q = d.port q := by
    rw [modPort_port, if_neg hq]
    exact (modPort_port ..).trans (if_neg hq)
  have hidle : ((((d.modPort p f).told ns).modPort p PortRec.endTalk).port p).state = .idle := by
    have hport : ((d.modPort p f).told ns).port p = f (d.port p) := (modPort_port ..).trans (if_pos rfl)
    rw [modPort_port, if_pos rfl, hport, PortRec.endTalk, if_pos (hstate.trans hsource), goTo_state]
  have hnot : ¬ (d.floor g).Lists (.port p) := not_lists_of_holder (hd.group g) hholder
  have hlist : (((d.modPort p f).told ns).modPort p PortRec.endTalk).ListSound late g := by
    have hl := (hplace.listSound (List.ne_nil_of_mem hp)).modPort hnot f
    exact (⟨hl.formed, hl.holds, hl.queued, hl.waiter, hl.nodup⟩ : ((d.modPort p f).told ns).ListSound late g).modPort hnot _
  have hthis (q : PortNo) (hq : (d.floor g).holder = some (.port q)) : q = p := by
    rw [hholder] at hq
    injection hq with hq
    injection hq with hq
    exact hq.symm
  have hwithin : d.Within g (((d.modPort p f).told ns).modPort p PortRec.endTalk) :=
    ((within_modPort hp f).told ns).trans (fun _ hq => hq) (within_modPort (d := (d.modPort p f).told ns) hp _)
  generalize he : ((d.modPort p f).told ns).modPort p PortRec.endTalk = e at *
  have hfloor : e.floor g = d.floor g := by rw [← he]; rfl
  have hmembers : (e.group g).members = (d.group g).members := by rw [← he]; rfl
  refine ((endsTalk_settles (by rw [hfloor]; exact (hd.group g).1) (by rw [hfloor]; exact htalk) hlist (fun q hq => ?_)
    (fun q hq => ?_) (fun q hq hlate hi => ?_) h).after hwithin hmembers).placed hd
  · by_cases hqp : q = p
    · rw [hqp, hidle]; nofun
    · rw [hother q hqp]
      exact ne_source_of_not_holder hplace (hmembers ▸ hq) fun hh => hqp (hthis q hh)
  · rw [hfloor] at hq
    rw [hmembers]
    obtain ⟨hmem, hlate⟩ := hplace.holder q hq
    exact ⟨hmem, hlate, by rw [hthis q hq, hidle]⟩
  · rw [hfloor]
    by_cases hqp : q = p
    · rw [hqp]; exact hholder
    · rw [hother q hqp] at hi
      exact (hplace.idle q (hmembers ▸ hq) hlate hi).resolve_left fun hfree => nomatch htalk.symm.trans hfree

/-- A port's carrier drops (R14). -/
theorem drops_placed (hd : d.Placed late) {f : PortRec → PortRec} (hstate : (f (d.port p)).state = (d.port p).state)
    (ns : CtlNo → List Notice) (h : ((d.modPort p f).told ns).DropsCarrier t p) : t.Placed late := by
  have hunlisted (hlist : ∀ g, ¬ (d.floor g).Lists (.port p)) : ((d.modPort p f).told ns).Placed late :=
    ((alike_modPort hstate fun g hw => absurd hw (hlist g)).placed hd).told ns
  have hport : ((d.modPort p f).told ns).port p = f (d.port p) := (modPort_port ..).trans (if_pos rfl)
  unfold Part.DropsCarrier at h
  rw [hport, hstate] at h
  split at h
  · next hsource =>
    obtain ⟨g, hgroup, htalk, hholder⟩ := hd.talker hsource
    have hsome : ((d.modPort p f).told ns).groupOf p = some g := hgroup
    rw [hsome] at h
    dsimp only at h
    rw [told_floor, modPort_floor, if_pos hholder] at h
    exact talkerDrops_placed hd hstate hsource ns (mem_of_groupOf hgroup) htalk hholder h
  · next hsource =>
    split at h
    · next hnone =>
      rw [h]
      exact hunlisted fun g hw => not_mem_of_groupOf hnone g (hd.waits hw).1
    · next g hsome =>
      have hp : p ∈ (d.group g).members := mem_of_groupOf hsome
      split at h
      · next hw =>
        have hlist : (d.floor g).Lists (.port p) := hw
        have hfits := (hd.group g).2.fits p hp
        have hkeyed := (hfits.waits hlist).1
        obtain ⟨hbusy, hholder⟩ := hfits.keyed hkeyed
        have hbystands := (hd.group g).bystands hp (f := f) (by rw [hstate, hkeyed]; exact ⟨nofun, nofun, fun _ => hbusy⟩)
        rw [h]
        exact (((hbystands.told ns).leftBy_settles hholder).after ((within_modPort hp f).told ns) rfl).placed hd
      · next hw =>
        rw [h]
        refine hunlisted fun k hk => hw ?_
        rw [hd.one g k p hp (hd.waits hk).1]
        exact hk

/-- A port's emergency status is raised (R98, R101). -/
theorem raises_placed (hd : d.Placed late) (h : d.RaisesEmergency t p) : t.Placed late := by
  unfold Part.RaisesEmergency at h
  split at h
  · rw [h]; exact hd
  · next g hsome =>
    obtain ⟨hsound, hplace⟩ := hd.group g
    dsimp only at h
    split at h
    · next hroutine =>
      obtain ⟨e, he, hsrc, -⟩ := hroutine
      have hbusy := busy_of_lists hsound ⟨e, he, hsrc⟩
      have hsources (ws : List Entry) :
          (ws.map fun e => if e.source = .port p then { e with emergency := true } else e).map (fun e => e.source) =
            ws.map fun e => e.source := by
        rw [List.map_map]
        refine List.map_congr_left fun x _ => ?_
        show (if _ then _ else _ : Entry).source = _
        split <;> rfl
      have hplace' := hplace.refloor (k := fun f =>
        { f with waiting := f.waiting.map fun e => if e.source = .port p then { e with emergency := true } else e })
        rfl rfl (hsources _)
      refine ((emergencyMeets_settles hplace' ?_ h).after (within_modFloor d g _) rfl).placed hd
      rw [modFloor_floor_self]
      refine stirred_of_sound hsound hbusy (fun hne x hx => ?_) ⟨_, List.mem_map_of_mem he, ?_, ?_⟩
      · have := hne _ (List.mem_map_of_mem hx)
        split at this <;> exact this
      · rw [if_pos hsrc]; exact hsrc
      · rw [if_pos hsrc]
    · split at h
      · next hmarks =>
        obtain ⟨hsource, hholder, -⟩ := hmarks
        have htalk := ((hplace.fits p (mem_of_groupOf hsome)).source.1 hsource).1
        rw [h]
        exact (Part.Settles.told (hplace.settles_modFloor (k := fun _ => { d.floor g with mark := true, preemptTimer := none })
          (marked_sound hsound htalk) rfl rfl rfl) _).placed hd
      · rw [h]; exact hd

/-- A port gets its carrier and claims the floor of its group (R13, R73). -/
theorem claims_placed (hd : d.Placed late) (hlate : ¬ late p) {f : PortRec → PortRec} (hstate : (f (d.port p)).state = (d.port p).state)
    (hbefore : (d.port p).carrier = false) (hafter : (f (d.port p)).carrier = true) (ns : CtlNo → List Notice) :
    (((d.modPort p f).told ns).claimIfMember p).Placed late := by
  have he : ((d.modPort p f).told ns).Placed late :=
    ((alike_modPort hstate fun _ _ hc => absurd (hbefore.symm.trans hc) nofun).placed hd).told ns
  have hport : ((d.modPort p f).told ns).port p = f (d.port p) := (modPort_port ..).trans (if_pos rfl)
  have hnew (g : GroupNo) : ¬ (((d.modPort p f).told ns).floor g).Lists (.port p) := fun hw =>
    nomatch hbefore.symm.trans (hd.waits (g := g) hw).2.2.2
  generalize (d.modPort p f).told ns = e at *
  unfold Part.claimIfMember
  split
  · next hst =>
    split
    · exact he
    · next g hsome =>
      exact (requests_settles (he.group g) (mem_of_groupOf hsome) hlate (by rw [hport, hafter]) (hnew g) hst
        (floorRequest_requests g p e)).placed he
  · exact he

end place

end Sys2Proof.Machine
end

section
/-!
PROOFS. Each event of a radio port, of a frame and of a floor timer, and each request of a console, keeps floors, consoles and radio
ports in line (O58, O60).
-/

namespace Sys2Proof.Machine

/-- Every group is sound, with every join reported. -/
abbrev Part.InLine (d : Part) : Prop := d.Placed fun _ => False

/-! What the events do to a record. -/

theorem startRestart_place (r : PortRec) : r.startRestart.state = r.state ∧ r.startRestart.carrier = r.carrier := by
  unfold PortRec.startRestart
  split <;> exact ⟨rfl, rfl⟩

theorem loseLink_out (r : PortRec) : r.loseLink.state.Out := by
  unfold PortRec.loseLink
  dsimp only
  rw [(startRestart_place _).1]
  split
  · next h => exact h.elim (fun h => .inr (.inr h)) .inl
  · rw [goTo_state]
    exact .inl rfl

theorem limitOut_out (r : PortRec) : r.limitOut.state.Out := by
  unfold PortRec.limitOut
  rw [goTo_state]
  split
  · exact .inr (.inl rfl)
  · exact .inr (.inr rfl)

theorem returnLink_of_offline {test : Bool} {r : PortRec} (h : r.state = .offline) :
    (r.returnLink test).state = if test then .keyed else .idle := by
  unfold PortRec.returnLink
  dsimp only
  rw [if_pos h, goTo_state]

theorem returnLink_of_not_offline {test : Bool} {r : PortRec} (h : r.state ≠ .offline) :
    (r.returnLink test).state = r.state ∧ (r.returnLink test).carrier = r.carrier := by
  unfold PortRec.returnLink
  dsimp only
  rw [if_neg h]
  exact ⟨rfl, rfl⟩

theorem applySettings_place (s : PortSettings) (r : PortRec) :
    (r.applySettings s).state = r.state ∧ (r.applySettings s).carrier = false := by
  rw [applySettings_eq]
  dsimp only
  split
  · exact ⟨rfl, rfl⟩
  · split
    · rw [← restarted_eq]
      exact startRestart_place _
    · exact ⟨rfl, rfl⟩

theorem frameOf_carrier (rx : RxSlot) (loading : Bool) (r : PortRec) : (r.frame loading rx).carrier = r.carrier := by
  have hfilter (high : Bool) (r : PortRec) : (r.filterFrame high).carrier = r.carrier := by
    unfold PortRec.filterFrame
    split <;> rfl
  unfold PortRec.frame
  dsimp only
  refine (hfilter rx.carrierHigh _).trans ?_
  split <;> rfl

section radio
variable {d : Part} {p : PortNo}

theorem emergencyAsserted_placed (hd : d.InLine) : (d.emergencyAsserted p).InLine := by
  unfold Part.emergencyAsserted
  split
  · exact raises_placed ((alike_modPort rfl fun _ _ hc => hc).placed hd) (raises_spec p _)
  · exact hd

theorem emergencyReleased_placed (hd : d.InLine) : (d.emergencyReleased p).InLine := by
  unfold Part.emergencyReleased
  split
  · exact (alike_modPort rfl fun _ _ hc => hc).placed hd
  · exact hd

theorem linkLoss_placed (hd : d.InLine) : (d.linkLoss p).InLine := by
  unfold Part.linkLoss
  split
  · dsimp only
    rw [portNotice_told]
    exact unavailable_placed hd (loseLink_out _) _ (reportLoss_unavailable hd _ _)
  · exact hd

theorem linkReturn_placed (hd : d.InLine) : (d.linkReturn p).InLine := by
  unfold Part.linkReturn
  split
  · rw [portNotice_told]
    refine Part.Placed.told ?_ _
    by_cases hst : (d.port p).state = .offline
    · refine hd.returns (.inl hst) (.inl ?_)
      rw [returnLink_of_offline hst]
      exact stateOnReturn_eq d p
    · obtain ⟨hstate, hcarrier⟩ := returnLink_of_not_offline (test := d.floorTest p) hst
      exact (alike_modPort hstate fun _ _ hc => hcarrier.trans hc).placed hd
  · exact hd

theorem restartTimerExpiry_placed (hd : d.InLine) : (d.restartTimerExpiry p).InLine := by
  unfold Part.restartTimerExpiry
  split
  · rw [portNotice_told]
    exact ((alike_modPort rfl fun _ _ hc => hc).placed hd).told _
  · exact hd

theorem restartPulseEnd_placed (hd : d.InLine) : (d.restartPulseEnd p).InLine := by
  unfold Part.restartPulseEnd
  split
  · obtain ⟨hstate, hcarrier⟩ := startRestart_place (d.port p)
    exact (alike_modPort hstate fun _ _ hc => hcarrier.trans hc).placed hd
  · exact hd

/-- A port whose guard runs does not wait: under suppression it has no carrier (R11). -/
theorem guardEnd_placed (hport : (d.port p).Sound) (hd : d.InLine) : (d.guardEnd p).InLine := by
  unfold Part.guardEnd
  split
  · next hguard =>
    have hsuppressed : (d.port p).Suppressed := by
      refine .inr (.inr (.inr (.inr fun hnone => ?_)))
      unfold PortRec.guardActive at hguard
      rw [hnone] at hguard
      exact nomatch hguard
    refine Part.Alike.placed (alike_modPort ?_ fun _ _ hc => ?_) hd
    · unfold PortRec.change
      rw [settle_state]
    · exact nomatch hc.symm.trans (hport.quiet hsuppressed).1
  · exact hd

theorem carrierYes_placed (hd : d.InLine) : (d.carrierYes p).InLine := by
  unfold Part.carrierYes
  split
  · next hdue =>
    rw [Bool.and_eq_true, Bool.and_eq_true, Bool.not_eq_true', Bool.not_eq_true'] at hdue
    rw [carrierNotice_told]
    exact claims_placed hd not_false rfl hdue.1.2 rfl _
  · exact hd

theorem carrierNo_placed (hd : d.InLine) : (d.carrierNo p).InLine := by
  unfold Part.carrierNo
  split
  · rw [carrierNotice_told]
    exact drops_placed hd rfl _ (drops_spec p _)
  · exact hd

theorem transmitLimitExpiry_placed (hd : d.InLine) : (d.transmitLimitExpiry p).InLine := by
  unfold Part.transmitLimitExpiry
  split
  · rw [portNotice_told]
    exact unavailable_placed hd (limitOut_out _) _ (memberUnavailable_spec p _)
  · exact hd

theorem carrierLimitExpiry_placed (hd : d.InLine) : (d.carrierLimitExpiry p).InLine := by
  unfold Part.carrierLimitExpiry
  split
  · next hdue =>
    rw [Bool.and_eq_true, decide_eq_true_iff] at hdue
    rw [portNotice_told]
    exact unavailable_placed hd (limitOut_out _) _ (sourceLost_unavailable hd hdue.2 (sourceLost_spec p _))
  · exact hd

theorem cooldownExpiry_placed (hd : d.InLine) : (d.cooldownExpiry p).InLine := by
  unfold Part.cooldownExpiry
  split
  · next hdue =>
    rw [Bool.and_eq_true, decide_eq_true_iff] at hdue
    rw [portNotice_told]
    refine (hd.returns (.inr (.inl hdue.2)) (.inl ?_)).told _
    rw [goTo_state, stateOnReturn_eq]
  · exact hd

theorem portSet_placed (s : PortSettings) (hd : d.InLine) : (d.portSet p s).InLine := by
  obtain ⟨hstate, -⟩ := applySettings_place s (d.port p)
  unfold Part.portSet
  dsimp only
  split
  · rw [carrierNotice_told]
    exact drops_placed hd hstate _ (drops_spec p _)
  · next hnone => exact (alike_modPort hstate fun _ _ hc => absurd hc hnone).placed hd

theorem portClear_placed (hout : (d.port p).state = .cooldown ∨ (d.port p).state = .latched) (hd : d.InLine) :
    (d.portClear p).InLine := by
  unfold Part.portClear
  rw [portNotice_told]
  refine (hd.returns (.inr hout) ?_).told _
  rw [goTo_state, ← stateOnReturn_eq]
  unfold Part.clearState
  split
  · exact .inl rfl
  · exact .inr (.inl rfl)

theorem setOwner_placed (c : CtlNo) (hd : d.InLine) : (d.setOwner p c).InLine := (alike_modPort rfl fun _ _ hc => hc).placed hd

/-! Frames. -/

theorem portCatchUp_placed (hd : d.InLine) : (d.portCatchUp p).InLine :=
  carrierNo_placed (carrierYes_placed (linkReturn_placed (linkLoss_placed (emergencyReleased_placed (emergencyAsserted_placed hd)))))

theorem levelBlockEnd_placed (hd : d.InLine) : d.levelBlockEnd.InLine := by
  rcases Nat.lt_or_ge d.blockFrames 80 with hblock | hblock
  · rwa [levelBlockEnd_of_not_due hblock]
  · obtain ⟨-, -, -, -, hgroups, hfloors, hconsoles⟩ := levelled_rest d
    have hfloor (g : GroupNo) : d.levelled.floor g = d.floor g := congrArg (fun v => tget v g) hfloors
    rw [levelBlockEnd_of_due hblock]
    refine Part.Alike.placed (d := d) ⟨fun g hs => by rwa [hfloor], fun g => by rw [hfloor], fun g => by rw [hfloor],
      fun g => by rw [hfloor], fun g => congrArg (fun v => (tget v g).members) hgroups,
      fun c => congrArg (fun v => (tget v c).involvement) hconsoles, fun q => by rw [levelled_port]; rfl, fun g q _ hc => ?_⟩ hd
    rw [levelled_port]
    exact hc

theorem frame_placed (rx : Vector RxSlot 24) (mics : Vector Sample 6) (hd : d.InLine) : (d.frame rx mics).InLine := by
  obtain ⟨hconsoles, -⟩ := frame_rest rx mics d
  refine Part.Alike.placed (d := d) ⟨fun g hs => by rw [frame_floor]; exact floorTick_sound hs, fun g => by rw [frame_floor]; rfl,
    fun g => by rw [frame_floor]; rfl, fun g => by rw [frame_floor]; rfl, fun g => by rw [frame_group]; rfl,
    fun c => congrArg (fun v => (tget v c).involvement) hconsoles, fun q => by rw [frame_port]; exact (frameOf_place ..).2,
    fun g q _ hc => ?_⟩ hd
  rw [frame_port, frameOf_carrier]
  exact hc

theorem tdmFrame_placed (rx : Vector RxSlot 24) (mics : Vector Sample 6) (hd : d.InLine) : (d.tdmFrame rx mics).InLine :=
  frame_placed rx mics (levelBlockEnd_placed (each_induct Part.InLine _ (fun _ _ => portCatchUp_placed) _ _ hd))

end radio

/-! The floor timers and the requests of the consoles. -/

/-- The floor passes on to a source that waits. -/
theorem passed_lists {f : FloorRec} {window : Nat} {src : Source} (h : (f.passed window).holder = some src) : f.Lists src := by
  unfold FloorRec.passed at h
  split at h
  · exact nomatch h
  · next e n hsome =>
    rw [(givenTo_busy ..).2] at h
    injection h with h
    exact ⟨e, (mem_of_grantDecision hsome).1, h⟩

section floors
variable {d : Part} {g : GroupNo} {c : CtlNo}

theorem hangExpiry_placed (hd : d.InLine) : (d.hangExpiry g).InLine := by
  unfold Part.hangExpiry
  split
  · next hdue =>
    rw [Bool.and_eq_true, decide_eq_true_iff] at hdue
    exact (passes_settles (hd.group g) (by rw [hdue.2]; nofun) (fun _ _ => by rw [hdue.2]; nofun) (endNoHang_goes g _ d)).placed hd
  · exact hd

/-- A pending grant lapses (R82, R85). -/
theorem lapseGrant_placed (cause : LapseCause) (hst : (d.floor g).state = .pending) (hd : d.InLine) : (d.lapseGrant g cause).InLine :=
  (passes_settles (hd.group g) (by rw [hst]; nofun) (fun _ _ => by rw [hst]; nofun) (lapseGrant_goes g cause d)).placed hd

theorem windowExpiry_placed (hd : d.InLine) : (d.windowExpiry g).InLine := by
  unfold Part.windowExpiry
  split
  · next hdue =>
    rw [Bool.and_eq_true, decide_eq_true_iff] at hdue
    exact lapseGrant_placed _ hdue.2 hd
  · exact hd

theorem preemptExpiry_placed (hd : d.InLine) : (d.preemptExpiry g).InLine := by
  unfold Part.preemptExpiry
  split
  · next hdue =>
    rw [Bool.and_eq_true, Bool.and_eq_true, decide_eq_true_iff] at hdue
    exact (cuts_settles (hd.group g).2 hdue.1.2 (cut_cuts g none d)).placed hd
  · exact hd

theorem talkRequest_placed (em : Bool) (hformed : (d.group g).members ≠ [])
    (hinv : (d.console c).involvement = .none ∨
      (d.console c).involvement = .holder g ∧ (d.floor g).state ≠ .pending ∧ (d.floor g).state ≠ .talk) (hd : d.InLine) :
    (d.talkRequest c g em).part.InLine := by
  refine (talkRequest_settles em (hd.group g) hformed (hinv.imp_right ?_)).placed hd
  rintro ⟨hholds, hpending, htalk⟩
  have hholder := ((hd.group g).2.holds c).1 hholds
  refine ⟨?_, hholder⟩
  cases hst : (d.floor g).state with
  | free => exact nomatch hholder.symm.trans ((holder_eq_none_iff (hd.group g).1).2 hst)
  | pending => exact absurd hst hpending
  | talk => exact absurd hst htalk
  | hang => rfl

theorem talkStart_placed (hst : (d.floor g).state = .pending) (hd : d.InLine) : (d.talkStart g).InLine := by
  obtain ⟨hsound, hplace⟩ := hd.group g
  have hnoport (p : PortNo) : (d.floor g).holder ≠ some (.port p) := fun hp => by
    rcases talk_or_hang_of_port hsound hp with h | h <;> exact nomatch hst.symm.trans h
  have hbusy : (d.floor g).state ≠ .free := by rw [hst]; nofun
  have hformed : (d.group g).members ≠ [] := formed_of_busy hplace hbusy
  rw [talkStart_told]
  refine Part.Placed.told (Part.Settles.placed (g := g) ⟨⟨by rw [modFloor_floor_self]; exact started_sound hsound hst, ?_⟩,
    within_modFloor d g _, rfl⟩ hd) _
  refine ⟨fun hnil => absurd hnil hformed, fun k => ?_, fun k => ?_, fun p hp => ?_, fun p hp => ?_, fun p hp => ?_,
    fun p hp hl hi => ?_, ?_⟩
  · rw [modFloor_floor_self]; exact hplace.holds k
  · rw [modFloor_floor_self]; exact hplace.queued k
  · rw [modFloor_floor_self] at hp; exact hplace.holder p hp
  · rw [modFloor_floor_self] at hp; exact hplace.waiter p hp
  · rw [modFloor_floor_self]
    obtain ⟨hsource, -, hwaits, -⟩ := hplace.fits p hp
    exact ⟨iff_of_false (fun hs => hnoport p (hsource.1 hs).2) fun hboth => hnoport p hboth.2, fun hh => absurd hh (hnoport p), hwaits,
      fun _ => ⟨nofun, hnoport p⟩⟩
  · exact absurd ((hplace.idle p hp hl hi).resolve_left hbusy) (hnoport p)
  · rw [modFloor_floor_self]; exact hplace.nodup

theorem talkEnd_placed (hinv : (d.console c).involvement = .holder g) (hst : (d.floor g).state = .talk) (hd : d.InLine) :
    (d.normalEnd g).InLine := (consoleEndsTalk_settles (hd.group g) hst (((hd.group g).2.holds c).1 hinv)).placed hd

theorem leaveList_placed (hinv : (d.console c).involvement = .waiter g) (hd : d.InLine) : (d.leaveList g (.console c)).InLine :=
  (leavesList_settles (hd.group g) hinv).placed hd

theorem clearFloor_placed (lapse : LapseCause) (cause : FloorCause) (hd : d.InLine) : (d.clearFloor g lapse cause).InLine :=
  (cleared_settles (hd.group g) (clearFloor_ends g lapse cause d)).placed hd

/-- A console leaves the floor by the reset of its controller (R86). -/
theorem consoleLeaves_placed {t : Part} (h : d.ConsoleLeaves t c) (hd : d.InLine) :
    t.InLine ∧ (t.console c).involvement = .none := by
  unfold Part.ConsoleLeaves at h
  split at h
  · next hnone =>
    rw [h]
    exact ⟨hd, hnone⟩
  · next g hwaits =>
    rw [h]
    refine ⟨(leavesList_settles (hd.group g) hwaits).placed hd, ?_⟩
    rw [modConsole_console, if_pos rfl]
  · next g hholds =>
    obtain ⟨hsound, hplace⟩ := hd.group g
    have hholder := (hplace.holds c).1 hholds
    have hbusy : (d.floor g).state ≠ .free := fun hfree => nomatch hholder.symm.trans ((holder_eq_none_iff hsound).2 hfree)
    have hwinner : ((d.floor g).passed (d.group g).settings.window).holder ≠ some (.console c) := fun hw => by
      have hlist := passed_lists hw
      exact nomatch hholds.symm.trans ((hplace.queued c).2 hlist)
    refine ⟨(passes_settles ⟨hsound, hplace⟩ hbusy (fun p hp => ?_) h).placed hd, ?_⟩
    · exact nomatch hholder.symm.trans hp
    · rw [h.2.2.2.1, if_neg hwinner, if_pos hholder]

end floors

end Sys2Proof.Machine
end

section
/-!
PROOFS. Each change of the layout keeps floors, consoles and radio ports in line (O58, O60).
-/

namespace Sys2Proof.Machine

section layout
variable {late : PortNo → Prop} {g : GroupNo} {p : PortNo} {d t : Part}

theorem alike_modGroup {f : GroupRec → GroupRec} (h : (f (d.group g)).members = (d.group g).members) : d.Alike (d.modGroup g f) :=
  alike_of_same (fun _ => rfl) (fun k => by
    rw [modGroup_group]
    split
    · next hk => rw [hk, h]
    · rfl) (fun _ => rfl) fun _ => rfl

theorem Part.Placed.revise (hd : d.Placed late) (g : GroupNo) (cause : LayoutCause) : (d.bumpRevision g cause).Placed late := by
  rw [bumpRevision_revised]
  exact ((alike_modGroup rfl).placed hd).told _

/-! A port leaves its group (R19, R80). -/

theorem removed_state (r : PortRec) : r.removed.state ≠ .keyed ∧ r.removed.state ≠ .source := by
  unfold PortRec.removed
  split
  · rw [goTo_state]; exact ⟨nofun, nofun⟩
  · next h => exact not_or.1 h

/-- A group after one of several members has left it, before its place is taken from it. -/
theorem Part.GroupSound.leaving (h : d.GroupSound late g) {ms : List PortNo} (hms : ∀ q, q ∈ ms ↔ q ∈ (d.group g).members ∧ q ≠ p)
    (hformed : ms ≠ []) {k : GroupRec → GroupRec} (hk : (k (d.group g)).members = ms) (f : PortRec → PortRec) :
    ((d.modGroup g k).modPort p f).Bystands late p g := by
  have honce := fun hh => not_lists_of_holder (p := p) h hh
  obtain ⟨hsound, hplace⟩ := h
  have hmembers : (((d.modGroup g k).modPort p f).group g).members = ms := by
    rw [modPort_group, modGroup_group, if_pos rfl, hk]
  have hport (q : PortNo) (hq : q ≠ p) : ((d.modGroup g k).modPort p f).port q = d.port q := (modPort_port ..).trans (if_neg hq)
  refine ⟨hsound, by rwa [hmembers], hplace.holds, hplace.queued, fun q hq hh => ?_, fun q hq hw => ?_, fun q hq hne => ?_,
    fun q hq hne => ?_, hplace.nodup, fun hp => ?_, honce⟩
  · obtain ⟨hmem, hlate⟩ := hplace.holder q hh
    exact ⟨hmembers ▸ (hms q).2 ⟨hmem, hq⟩, hlate⟩
  · obtain ⟨hmem, hlate⟩ := hplace.waiter q hw
    exact ⟨hmembers ▸ (hms q).2 ⟨hmem, hq⟩, hlate⟩
  · rw [hport q hne]
    exact hplace.fits q ((hms q).1 (hmembers ▸ hq)).1
  · rw [hport q hne]
    exact hplace.idle q ((hms q).1 (hmembers ▸ hq)).1
  · exact absurd rfl ((hms p).1 (hmembers ▸ hp)).2

theorem removes_placed (hd : d.Placed late) (hp : p ∈ (d.group g).members) (h : d.Removes t g p) : t.Placed late := by
  have hms (q : PortNo) : q ∈ (d.group g).members.filter (fun m => m ≠ p) ↔ q ∈ (d.group g).members ∧ q ≠ p := by
    rw [List.mem_filter, decide_eq_true_iff]
  unfold Part.Removes at h
  dsimp only at h
  generalize he : (d.modGroup g fun r => { r with members := r.members.filter fun m => m ≠ p }).modPort p PortRec.removed = e at h
  have hwithin : d.Within g e := by
    rw [← he]
    refine ⟨fun _ _ => rfl, fun k hk => ?_, fun _ _ _ => Iff.rfl, fun _ _ _ => Iff.rfl, fun q hq => ?_⟩
    · rw [modPort_group, modGroup_group, if_neg hk]
    · rw [modPort_port, if_neg]
      · rfl
      · rintro rfl; exact hq hp
  have hmembers : (e.group g).members = (d.group g).members.filter fun m => m ≠ p := by
    rw [← he, modPort_group, modGroup_group, if_pos rfl]
  have hport : e.port p = (d.port p).removed := by
    rw [← he]
    exact (modPort_port ..).trans (if_pos rfl)
  have hsub (q : PortNo) (hq : q ∈ (e.group g).members) : q ∈ (d.group g).members := ((hms q).1 (hmembers ▸ hq)).1
  have hgone (q : PortNo) (hq : q ∈ (d.group g).members) (hnot : q ∉ (e.group g).members) : q = p := by
    by_contra hne
    exact hnot (hmembers ▸ (hms q).2 ⟨hq, hne⟩)
  obtain ⟨-, hplace⟩ := hd.group g
  split at h
  · next hempty =>
    obtain ⟨hends, hports⟩ := h
    have hholds : ∀ c, (e.console c).involvement = .holder g ↔ (e.floor g).holder = some (.console c) := by rw [← he]; exact hplace.holds
    have hqueued : ∀ c, (e.console c).involvement = .waiter g ↔ (e.floor g).Lists (.console c) := by rw [← he]; exact hplace.queued
    have hsame : (t.group g).members = (e.group g).members := by rw [hends.2.1, if_pos rfl]; rfl
    refine hd.settle (floorEnds_within hwithin hholds hqueued hends fun q hq => (hports q).trans (hwithin.port q hq))
      (floorEnds_groupSound hholds hqueued hends fun q hq => ?_) (fun q hq => hsub q (hsame ▸ hq)) fun q hq hnot => ?_
    · rw [hempty] at hq
      exact absurd hq List.not_mem_nil
    · rw [hports, hgone q hq (hsame ▸ hnot), hport]
      exact removed_state _
  · next hformed =>
    have hbystands : e.Bystands late p g := by
      rw [← he]
      exact (hd.group g).leaving hms (hmembers ▸ hformed) rfl _
    obtain ⟨hsound, hwithin', hsame⟩ := losesPlace_settles hbystands h
    refine hd.settle (hwithin.trans hsub hwithin') hsound (fun q hq => hsub q (hsame ▸ hq)) fun q hq hnot => ?_
    have hnot' : q ∉ (e.group g).members := hsame ▸ hnot
    have hqp := hgone q hq hnot'
    rw [hwithin'.port q hnot', hqp, hport]
    exact removed_state _

theorem leaveGroup_placed (hd : d.Placed late) (hp : p ∈ (d.group g).members) : (d.leaveGroup g p).Placed late :=
  removes_placed hd hp (leaveGroup_removes g p d)

/-- Every member leaves a group at once (R49, R52). -/
theorem removeAll_placed (hd : d.Placed late) (g : GroupNo) : (d.removeAll g).Placed late := by
  obtain ⟨hends, hports⟩ := removeAll_empties g d
  obtain ⟨-, hplace⟩ := hd.group g
  have hempty : ((d.modGroup g fun r => { r with members := [] }).group g).members = [] := by rw [modGroup_group, if_pos rfl]
  have hwithin : d.Within g (d.modGroup g fun r => { r with members := [] }) :=
    ⟨fun _ _ => rfl, fun k hk => by rw [modGroup_group, if_neg hk], fun _ _ _ => Iff.rfl, fun _ _ _ => Iff.rfl, fun _ _ => rfl⟩
  have hsame : ((d.removeAll g).group g).members = [] := by
    rw [hends.2.1, if_pos rfl]
    exact hempty
  refine hd.settle (floorEnds_within hwithin hplace.holds hplace.queued hends fun q hq => ?_)
    (floorEnds_groupSound (e := d.modGroup g fun r => { r with members := [] }) hplace.holds hplace.queued hends fun q hq => ?_)
    (fun q hq => ?_) fun q hq _ => ?_
  · rw [hports, if_neg hq]
  · rw [hempty] at hq
    exact absurd hq List.not_mem_nil
  · rw [hsame] at hq
    exact absurd hq List.not_mem_nil
  · rw [hports, if_pos hq]
    exact removed_state _

/-! Ports join a group (R19, R38, R79). -/

/-- Ports of no group become members of group `g`, before their joins are reported. -/
theorem Part.Placed.enroll (hd : d.InLine) {f : GroupRec → GroupRec} (hkept : ∀ q ∈ (d.group g).members, q ∈ (f (d.group g)).members)
    (hlate : ∀ q, late q ↔ q ∈ (f (d.group g)).members ∧ q ∉ (d.group g).members)
    (hloose : ∀ q, late q → ∀ k, q ∉ (d.group k).members) : (d.modGroup g f).Placed late := by
  have hmembers (k : GroupNo) : ((d.modGroup g f).group k).members = if k = g then (f (d.group g)).members else (d.group k).members := by
    rw [modGroup_group]
    split <;> rfl
  have hsub (k : GroupNo) (q : PortNo) (hq : q ∈ (d.group k).members) : q ∈ ((d.modGroup g f).group k).members ∧ ¬ late q := by
    refine ⟨?_, fun hl => hloose q hl k hq⟩
    rw [hmembers]
    split
    · next hk => exact hkept q (hk ▸ hq)
    · exact hq
  have hnew (k : GroupNo) (q : PortNo) (hq : q ∈ ((d.modGroup g f).group k).members) (hnot : q ∉ (d.group k).members) : k = g ∧ late q := by
    rw [hmembers] at hq
    split at hq
    · next hk => exact ⟨hk, (hlate q).2 ⟨hq, hk ▸ hnot⟩⟩
    · exact absurd hq hnot
  refine ⟨fun k => ⟨(hd.group k).1, ?_⟩, fun q hq => hd.loose q fun k hk => hq k (hsub k q hk).1, fun k h q hk hh => ?_⟩
  · obtain ⟨hempty, hholds, hqueued, hholder, hwaiter, hfits, hidle, hnodup⟩ := (hd.group k).2
    refine ⟨fun hnil => hempty ?_, hholds, hqueued, fun q hq => hsub k q (hholder q hq).1, fun q hq => hsub k q (hwaiter q hq).1,
      fun q hq => ?_, fun q hq hl => ?_, hnodup⟩
    · exact List.eq_nil_iff_forall_not_mem.2 fun q hq => List.eq_nil_iff_forall_not_mem.1 hnil q (hsub k q hq).1
    · by_cases hold : q ∈ (d.group k).members
      · exact hfits q hold
      · obtain ⟨hkeyed, hsource⟩ := hd.loose q (hloose q (hnew k q hq hold).2)
        exact ⟨iff_of_false hsource fun hboth => hold (hholder q hboth.2).1, fun hh => absurd (hholder q hh).1 hold,
          fun hw => absurd (hwaiter q hw).1 hold, fun hk => absurd hk hkeyed⟩
    · by_cases hold : q ∈ (d.group k).members
      · exact hidle q hold not_false
      · exact absurd (hnew k q hq hold).2 hl
  · by_cases hk' : q ∈ (d.group k).members
    · by_cases hh' : q ∈ (d.group h).members
      · exact hd.one k h q hk' hh'
      · exact absurd hk' (hloose q (hnew h q hh hh').2 k)
    · obtain ⟨rfl, hl⟩ := hnew k q hk hk'
      by_cases hh' : q ∈ (d.group h).members
      · exact absurd hh' (hloose q hl h)
      · exact (hnew h q hh hh').1.symm

/-- Joins are reported of members that are not IDLE in a busy group. -/
theorem Part.Placed.report (hd : d.Placed late) {late' : PortNo → Prop} (hsub : ∀ q, late' q → late q)
    (hnew : ∀ k, ∀ q ∈ (d.group k).members, late q → ¬ late' q → (d.port q).state = .idle → (d.floor k).state = .free) :
    d.Placed late' := by
  refine ⟨fun k => ⟨(hd.group k).1, ?_⟩, hd.loose, hd.one⟩
  obtain ⟨hempty, hholds, hqueued, hholder, hwaiter, hfits, hidle, hnodup⟩ := (hd.group k).2
  refine ⟨hempty, hholds, hqueued, fun q hq => (hholder q hq).imp_right (mt (hsub q)), fun q hq => (hwaiter q hq).imp_right (mt (hsub q)),
    hfits, fun q hq hl hi => ?_, hnodup⟩
  by_cases hl' : late q
  · exact .inl (hnew k q hq hl' hl hi)
  · exact hidle q hq hl' hi

/-- The key order to a new member of a busy group. -/
theorem Part.Placed.key (hd : d.Placed late) (hp : p ∈ (d.group g).members) (hlate : late p) (hbusy : (d.floor g).state ≠ .free) :
    (d.modPort p PortRec.key).Placed late ∧ (d.port p).key.state ≠ .idle := by
  have hkey : (d.port p).key.state = if (d.port p).state = .idle then .keyed else (d.port p).state := by
    unfold PortRec.key
    split
    · rw [goTo_state]
    · rfl
  have hidle : (d.port p).key.state ≠ .idle := by
    rw [hkey]
    split
    · nofun
    · assumption
  refine ⟨hd.modPort (fun k hk => ?_) fun hloose => absurd hp (hloose g), hidle⟩
  obtain rfl := hd.one k g p hk hp
  have hplace := (hd.group k).2
  have hholder : (d.floor k).holder ≠ some (.port p) := fun hh => (hplace.holder p hh).2 hlate
  have hsource : (d.port p).key.state ≠ .source := by
    rw [hkey]
    split
    · nofun
    · exact ne_source_of_not_holder hplace hp hholder
  exact ⟨⟨iff_of_false hsource fun hboth => hholder hboth.2, fun hh => absurd hh hholder, fun hw => absurd hlate (hplace.waiter p hw).2,
    fun _ => ⟨hbusy, hholder⟩⟩, fun hl => absurd hlate hl⟩

theorem joinReported_placed (hd : d.Placed late) {late' : PortNo → Prop} (hp : p ∈ (d.group g).members) (hlate : late p)
    (hlate' : ∀ q, late' q ↔ late q ∧ q ≠ p) (h : d.JoinReported t g p) : t.Placed late' := by
  have hnotlate : ¬ late' p := fun hl => ((hlate' p).1 hl).2 rfl
  have hthis (k : GroupNo) (q : PortNo) (hq : q ∈ (d.group k).members) (hl : late q) (hl' : ¬ late' q) : q = p ∧ k = g := by
    have hqp : q = p := by
      by_contra hne
      exact hl' ((hlate' q).2 ⟨hl, hne⟩)
    subst hqp
    exact ⟨rfl, hd.one k g q hq hp⟩
  have hnew : ¬ (d.floor g).Lists (.port p) := fun hw => ((hd.group g).2.waiter p hw).2 hlate
  unfold Part.JoinReported at h
  dsimp only at h
  by_cases hfree : (d.floor g).state = .free
  · simp only [if_pos hfree] at h
    have hd' : d.Placed late' := hd.report (fun q hq => ((hlate' q).1 hq).1) fun k q hq hl hl' _ => (hthis k q hq hl hl').2 ▸ hfree
    split at h
    · next hclaims => exact (requests_settles (hd'.group g) hp hnotlate hclaims.1 hnew (.inl hclaims.2) h).placed hd'
    · rw [h]; exact hd'
  · simp only [if_neg hfree] at h
    obtain ⟨hkeyed, hidle⟩ := hd.key hp hlate hfree
    have hd' : (d.modPort p PortRec.key).Placed late' := hkeyed.report (fun q hq => ((hlate' q).1 hq).1) fun k q hq hl hl' hi => by
      rw [(hthis k q hq hl hl').1, modPort_port, if_pos rfl] at hi
      exact absurd hi hidle
    split at h
    · next hclaims => exact (requests_settles (hd'.group g) hp hnotlate hclaims.1 hnew (.inr hclaims.2) h).placed hd'
    · rw [h]; exact hd'

theorem joinGroup_placed (hd : d.InLine) (hp : ∀ k, p ∉ (d.group k).members) : (d.joinGroup g p).InLine := by
  refine joinReported_placed (late := fun q => q = p) (hd.enroll (fun q hq => List.mem_append_left _ hq) (fun q => ?_) fun q hq => ?_) ?_ rfl
    (fun q => ⟨nofun, fun h => h.2 h.1⟩) (joinGroup_joins g p d)
  · show q = p ↔ q ∈ (d.group g).members ++ [p] ∧ q ∉ (d.group g).members
    rw [List.mem_append, List.mem_singleton]
    exact ⟨fun h => ⟨.inr h, h ▸ hp g⟩, fun h => h.1.resolve_left h.2⟩
  · exact hq ▸ hp
  · rw [modGroup_group, if_pos rfl]
    exact List.mem_append_right _ List.mem_cons_self

/-! The requests (R45 to R49). -/

theorem moveOut_placed (hd : d.InLine) (hp : p ∉ (d.group g).members) :
    (d.moveOut p (d.otherGroup g p)).InLine ∧ ∀ k, p ∉ ((d.moveOut p (d.otherGroup g p)).group k).members := by
  cases ho : d.otherGroup g p with
  | none => exact ⟨hd, not_mem_of_otherGroup_none hp ho⟩
  | some o =>
    obtain ⟨hpo, -⟩ := mem_of_otherGroup ho
    refine ⟨(leaveGroup_placed hd hpo).revise o _, fun k hk => ?_⟩
    have hk' : p ∈ ((d.leaveGroup o p).group k).members := bumpRevision_members .. ▸ hk
    rw [leaveGroup_members] at hk'
    split at hk'
    · exact absurd rfl (of_decide_eq_true (List.mem_filter.1 hk').2)
    · next hne => exact hne (hd.one k o p hk' hpo)

theorem groupAdd_placed (hd : d.InLine) (hp : p ∉ (d.group g).members) : (d.groupAdd g p).InLine := by
  obtain ⟨hmoved, hloose⟩ := moveOut_placed hd hp
  exact (joinGroup_placed hmoved hloose).revise g _

theorem groupRemove_placed (hd : d.InLine) (hp : p ∈ (d.group g).members) : (d.groupRemove g p).InLine :=
  (leaveGroup_placed hd hp).revise g _

theorem groupSet_placed (s : GroupSettings) (hd : d.InLine) : (d.groupSet g s).InLine :=
  Part.Placed.revise ((alike_modGroup rfl).placed hd) g _

theorem groupDisband_placed (hd : d.InLine) : (d.groupDisband g).InLine :=
  Part.Placed.revise (removeAll_placed ((alike_modGroup rfl).placed hd) g) g _

theorem dissolveExpiry_placed (hd : d.InLine) : (d.dissolveExpiry g).InLine := by
  unfold Part.dissolveExpiry
  split
  · exact (removeAll_placed hd g).revise g _
  · exact hd

end layout

end Sys2Proof.Machine
end

section
/-!
PROOFS. O58 and O60: recalls, resets, the load and the requests keep floors, consoles and radio ports in line, so every step does.
-/

namespace Sys2Proof.Machine

/-! A recall (R125). -/

section recalls
variable {d : Part} {g : GroupNo} {pre : Preset}

/-- Members leave a group one after the other. -/
theorem leaveGroupAll_placed {ps : List PortNo} (hnodup : ps.Nodup) (hps : ∀ p ∈ ps, p ∈ (d.group g).members) (hd : d.InLine) :
    (d.leaveGroupAll g ps).InLine := by
  unfold Part.leaveGroupAll
  induction ps generalizing d with
  | nil => exact hd
  | cons p ps ih =>
    obtain ⟨hp, hrest⟩ := List.nodup_cons.1 hnodup
    refine ih hrest (fun q hq => ?_) (leaveGroup_placed hd (hps p List.mem_cons_self))
    rw [leaveGroup_members, if_pos rfl, List.mem_filter, decide_eq_true_iff]
    exact ⟨hps q (List.mem_cons_of_mem p hq), fun hqp => hp (hqp ▸ hq)⟩

/-- In line, and no port twice in a member list. -/
def Part.InOrder (d : Part) : Prop := d.InLine ∧ ∀ g, (d.group g).members.Nodup

/-- A change of group `g` that leaves it with some of its members. -/
theorem Part.InOrder.of_sublist {t : Part} (h : d.InOrder) (ht : t.InLine) (helse : d.SameElsewhere g t)
    (hsub : (t.group g).members.Sublist (d.group g).members) : t.InOrder := by
  refine ⟨ht, fun k => ?_⟩
  by_cases hk : k = g
  · exact hk ▸ (h.2 g).sublist hsub
  · rw [(helse k hk).1]
    exact h.2 k

theorem recallCleared_inOrder (h : d.InOrder) : (d.recallCleared pre).InOrder := by
  refine each_induct Part.InOrder _ (fun g d h => ?_) _ _ h
  refine ⟨clearFloor_placed _ _ h.1, fun k => ?_⟩
  have hsame := (Part.Acts.clearFloor d g .layout .layout).layoutSame.members k
  exact hsame ▸ h.2 k

theorem recallLose_inOrder (g : GroupNo) (h : d.InOrder) : (d.recallLose pre g).InOrder := by
  refine h.of_sublist (g := g) ?_ (recallLose_elsewhere pre g d) ?_
  · refine Part.Placed.revise (leaveGroupAll_placed ((h.2 g).filter _) (fun p hp => (List.mem_filter.1 hp).1) h.1) g _
  · rw [(recallLose_rewritten pre g d).fields.1]
    exact List.filter_sublist

theorem recallTrim_inOrder (e : GroupEntry) (h : d.InOrder) : (d.recallTrim e).InOrder := by
  refine h.of_sublist (g := e.group) ?_ (recallTrim_elsewhere e d) ?_
  · exact leaveGroupAll_placed ((h.2 e.group).filter _) (fun p hp => (List.mem_filter.1 hp).1) h.1
  · rw [(recallTrim_rewritten e d).fields.1]
    exact List.filter_sublist

theorem recallTrimmed_inOrder (h : d.InOrder) : (d.recallTrimmed pre).InOrder :=
  each_induct Part.InOrder _ (fun e _ => recallTrim_inOrder e) _ _
    (each_induct Part.InOrder _ (fun g _ => recallLose_inOrder g) _ _ (recallCleared_inOrder h))

/-- Every port that the preset places is in the group that it gives it, or in none, and the groups that it names have no others. -/
structure Part.Confined (pre : Preset) (d : Part) : Prop where
  named : ∀ e ∈ pre, ∀ p ∈ (d.group e.group).members, p ∈ e.members
  placed : ∀ k, ∀ p ∈ (d.group k).members, ∀ e ∈ pre, p ∈ e.members → e.group = k

theorem recallTrimmed_confined (hpre : pre.Sound) (d : Part) : (d.recallTrimmed pre).Confined pre := by
  have hnamed (e : GroupEntry) (he : e ∈ pre) (p : PortNo) (hp : p ∈ ((d.recallTrimmed pre).group e.group).members) : p ∈ e.members := by
    rw [(recallTrimmed_named d hpre.1 he).fields.1, List.mem_filter, decide_eq_true_iff] at hp
    exact hp.2
  refine ⟨hnamed, fun k p hp e he hpe => ?_⟩
  by_cases hname : Part.namedBy pre k
  · obtain ⟨e', he', rfl⟩ := hname
    rw [hpre.entry_unique he he' hpe (hnamed e' he' p hp)]
  · have hlast := each_elsewhere recallWrite_elsewhere (fun e he hg => hname ⟨e, he, hg⟩) (d.recallTrimmed pre)
    rw [← hlast.1, ← recallApply_trimmed, (recallApply_unnamed d hname).1, List.mem_filter, decide_eq_true_iff] at hp
    exact absurd hpe (hp.2 e he)

theorem reportJoin_members (g k : GroupNo) (p : PortNo) (d : Part) : ((d.reportJoin g p).group k).members = (d.group k).members :=
  (Part.Acts.reportJoin d g p).layoutSame.members k

/-- The joins are reported one after the other. -/
theorem reportJoins_placed {js : List PortNo} (hnodup : js.Nodup) (hjs : ∀ p ∈ js, p ∈ (d.group g).members)
    (hd : d.Placed fun p => p ∈ js) : (Part.each (Part.reportJoin g) js d).InLine := by
  induction js generalizing d with
  | nil => exact hd.report (fun q => False.elim) fun k q _ hq => absurd hq List.not_mem_nil
  | cons p js ih =>
    obtain ⟨hp, hrest⟩ := List.nodup_cons.1 hnodup
    refine ih hrest (fun q hq => ?_) (joinReported_placed hd (hjs p List.mem_cons_self) List.mem_cons_self (fun q => ?_)
      (reportJoin_reported g p d))
    · rw [reportJoin_members]
      exact hjs q (List.mem_cons_of_mem p hq)
    · rw [List.mem_cons]
      exact ⟨fun hq => ⟨.inr hq, fun hqp => hp (hqp ▸ hq)⟩, fun hq => hq.1.resolve_left hq.2⟩

theorem recallWrite_placed (hpre : pre.Sound) {e : GroupEntry} (he : e ∈ pre) (hd : d.InLine) (hc : d.Confined pre) :
    (d.recallWrite e).InLine := by
  have hmem (q : PortNo) : q ∈ e.members.filter (fun m => !(d.group e.group).members.contains m) ↔
      q ∈ e.members ∧ q ∉ (d.group e.group).members := by
    rw [List.mem_filter, Bool.not_eq_true', ← Bool.not_eq_true, List.contains_iff_mem]
  rw [recallWrite_revised, ← bumpRevision_revised]
  refine Part.Placed.revise (reportJoins_placed ((hpre.members_nodup he).filter _) (fun p hp => ?_)
    (hd.enroll (hc.named e he) hmem fun q hq k hk => ?_)) e.group _
  · rw [modGroup_group, if_pos rfl]
    exact ((hmem p).1 hp).1
  · obtain ⟨hqe, hnot⟩ := (hmem q).1 hq
    rw [← hc.placed k q hk e he hqe] at hk
    exact hnot hk

theorem recallWrite_confined (hpre : pre.Sound) {e : GroupEntry} (he : e ∈ pre) (hc : d.Confined pre) : (d.recallWrite e).Confined pre := by
  have hmembers (k : GroupNo) : ((d.recallWrite e).group k).members = if k = e.group then e.members else (d.group k).members := by
    split
    · next hk => rw [hk, (recallWrite_rewritten e d).fields.1]
    · next hk => rw [(recallWrite_elsewhere e d k hk).1]
  have hsame (e' : GroupEntry) (he' : e' ∈ pre) (hg : e'.group = e.group) : e' = e :=
    List.inj_on_of_nodup_map hpre.1 he' he hg
  refine ⟨fun e' he' p hp => ?_, fun k p hp e' he' hpe => ?_⟩
  · rw [hmembers] at hp
    split at hp
    · next hg => rwa [hsame e' he' hg]
    · exact hc.named e' he' p hp
  · rw [hmembers] at hp
    split at hp
    · next hk => rw [hk, hpre.entry_unique he' he hpe hp]
    · exact hc.placed k p hp e' he' hpe

theorem recallApply_placed (hpre : pre.Sound) (h : d.InOrder) : (d.recallApply pre).InLine := by
  have hwrites (es : Preset) {d : Part} (hes : ∀ e ∈ es, e ∈ pre) (hd : d.InLine) (hc : d.Confined pre) :
      (Part.each Part.recallWrite es d).InLine := by
    induction es generalizing d with
    | nil => exact hd
    | cons e es ih =>
      have he := hes e List.mem_cons_self
      exact ih (fun x hx => hes x (List.mem_cons_of_mem e hx)) (recallWrite_placed hpre he hd hc) (recallWrite_confined hpre he hc)
  exact hwrites pre (fun _ he => he) (recallTrimmed_inOrder h).1 (recallTrimmed_confined hpre d)

end recalls

end Sys2Proof.Machine
end

section
/-!
PROOFS. O58 and O60: every command keeps floors, consoles and radio ports in line, and that is what the two invariants say.
-/

namespace Sys2Proof.Machine

section steps
variable {d t : Part} {c : CtlNo} {g : GroupNo} {p : PortNo}

/-! What does not touch the floors. -/

theorem Part.Placed.of_same {late : PortNo → Prop} (hd : d.Placed late) (hfloor : ∀ g, t.floor g = d.floor g)
    (hmembers : ∀ g, (t.group g).members = (d.group g).members)
    (hinv : ∀ c, (t.console c).involvement = (d.console c).involvement) (hport : ∀ p, t.port p = d.port p) : t.Placed late :=
  (alike_of_same hfloor hmembers hinv hport).placed hd

theorem Part.Placed.modCtl {late : PortNo → Prop} (hd : d.Placed late) (c : CtlNo) (f : CtlPort → CtlPort) : (d.modCtl c f).Placed late :=
  hd.of_same (fun _ => rfl) (fun _ => rfl) (fun _ => rfl) fun _ => rfl

theorem endHold_placed (hd : d.InLine) : (d.endHold g).InLine :=
  Part.Alike.placed (alike_modGroup rfl) (Part.Alike.placed (alike_modGroup rfl) hd)

theorem beginHold_placed (hd : d.InLine) : (d.beginHold c g).InLine :=
  Part.Alike.placed (alike_modGroup rfl) (Part.Alike.placed (alike_modGroup rfl) hd)

theorem renewed_placed (hd : d.InLine) : (d.renewed c g).InLine :=
  hd.of_same (fun _ => rfl) (fun _ => renewed_members ..) (fun _ => rfl) fun _ => rfl

theorem holdExpiry_placed (hd : d.InLine) : (d.holdExpiry g).InLine := by
  unfold Part.holdExpiry
  split
  · split
    · exact hd
    · rw [notify_told]
      exact (endHold_placed hd).told _
  · exact hd

theorem attach_placed (mode : AttnMode) (pol : Polarity) (hd : d.InLine) : (d.attach c mode pol).InLine := by
  unfold Part.attach
  dsimp only
  split
  · exact hd.modCtl c _
  · rw [notify_told]
    exact (hd.modCtl c _).told _

/-! The resets (R146, R147) and the load (R129). -/

theorem holdsEnded_members (d : Part) (c : CtlNo) (g : GroupNo) : ((d.holdsEnded c).group g).members = (d.group g).members := by
  have h : (d.holdsEnded c).group g = if (d.group g).holdHolder = some c then
      { d.group g with holdHolder := none, holdTimer := none }.timed (decide ((d.floor g).state = FloorState.free)) else d.group g :=
    tget_tmap ..
  rw [h]
  split <;> rfl

theorem controllerPortReset_placed (hd : d.InLine) : (d.controllerPortReset c).InLine := by
  obtain ⟨e, hleaves, heq⟩ := controllerPortReset_resets c d
  have hended : ((d.modCtl c fun _ => (d.ctl c).portReset).holdsEnded c).InLine :=
    hd.of_same (fun _ => rfl) (fun g => holdsEnded_members _ c g) (fun _ => rfl) fun _ => rfl
  obtain ⟨he, hnone⟩ := consoleLeaves_placed hleaves hended
  rw [heq]
  refine Part.Placed.told ?_ _
  refine he.of_same (fun _ => rfl) (fun _ => rfl) (fun k => ?_) fun _ => rfl
  refine (congrArg ConsoleRec.involvement (modConsole_console e c k _)).trans ?_
  split
  · next hk => exact (hk ▸ hnone).symm
  · rfl

/-- With every floor FREE and no port KEYED or SOURCE, all is in line. -/
theorem inLine_of_free (hfloor : ∀ g, d.floor g = FloorRec.reset) (hinv : ∀ c, (d.console c).involvement = .none)
    (hport : ∀ p, (d.port p).state ≠ .keyed ∧ (d.port p).state ≠ .source)
    (hone : ∀ g h p, p ∈ (d.group g).members → p ∈ (d.group h).members → g = h) : d.InLine := by
  have hnobody (x : Source) : ¬ FloorRec.reset.Lists x := fun ⟨_, he, _⟩ => nomatch he
  refine ⟨fun g => ⟨by rw [hfloor]; exact reset_sound, ?_⟩, fun p _ => hport p, hone⟩
  refine ⟨fun _ => by rw [hfloor]; rfl, fun c => ?_, fun c => ?_, fun p hp => ?_, fun p hp => ?_, fun p hp => ?_, fun p _ _ _ => ?_, ?_⟩
  · rw [hinv, hfloor]; exact iff_of_false nofun nofun
  · rw [hinv, hfloor]; exact iff_of_false nofun (hnobody _)
  · rw [hfloor] at hp; exact nomatch hp
  · rw [hfloor] at hp; exact absurd hp (hnobody _)
  · rw [hfloor]
    exact ⟨iff_of_false (hport p).2 fun hboth => (nomatch hboth.1), nofun, fun hw => absurd hw (hnobody _),
      fun hk => absurd hk (hport p).1⟩
  · rw [hfloor]; exact .inl rfl
  · rw [hfloor]; exact List.nodup_nil

theorem deviceReset_placed (d : Part) : d.deviceReset.InLine := by
  have hgroup (g : GroupNo) : d.deviceReset.group g = GroupRec.reset := group_reset g
  have hport (p : PortNo) : d.deviceReset.port p = PortRec.reset p := port_reset p
  have hconsole (c : CtlNo) : d.deviceReset.console c = ConsoleRec.reset := console_reset c
  refine inLine_of_free (fun g => floor_reset g) (fun c => by rw [hconsole]; rfl) (fun p => by rw [hport]; exact ⟨nofun, nofun⟩)
    fun g h p hp => ?_
  rw [hgroup] at hp
  exact absurd hp List.not_mem_nil

/-- Where no group is formed all floors are FREE. -/
theorem Part.Placed.free (hd : d.InLine) (hreset : ∀ g, d.group g = GroupRec.reset) (g : GroupNo) : d.floor g = FloorRec.reset :=
  eq_reset_of_sound (hd.group g).1 ((hd.group g).2.empty (by rw [hreset]; rfl))

theorem load_state (s : PortSettings) (r : PortRec) : (r.load s).state = r.state := by
  unfold PortRec.load
  dsimp only
  split
  · exact (startRestart_place _).1
  · rfl

theorem loadDone_placed (hlayout : d.LayoutSound) (hports : d.PortsSound) (hd : d.InLine) : d.loadDone.InLine := by
  have hone := (loadDone_layoutSound hlayout).2.1
  unfold Part.loadDone at hone ⊢
  split
  · next hload =>
    rw [if_pos hload] at hone
    have hfree := hd.free (hlayout.2.2.2.2.2 hload)
    have hnone (c : CtlNo) : (d.console c).involvement = .none := by
      cases hinv : (d.console c).involvement with
      | none => rfl
      | holder g =>
        have hholder := ((hd.group g).2.holds c).1 hinv
        rw [hfree] at hholder
        exact nomatch hholder
      | waiter g =>
        obtain ⟨e, he, -⟩ := ((hd.group g).2.queued c).1 hinv
        rw [hfree] at he
        exact nomatch he
    have hport (p : PortNo) : (d.loadPorts.loadPreset.storeIdle.port p).state = .offline := by
      obtain ⟨hrecords, -⟩ := (portsSound_iff d).1 hports
      obtain ⟨-, -, habsent⟩ := hrecords p
      obtain ⟨-, hoff⟩ := habsent hload
      have hsame : d.loadPorts.loadPreset.storeIdle.port p = d.loadPorts.port p := by
        rw [Part.storeIdle, loadPreset_fields]
        rfl
      rw [hsame, loadPorts_port]
      split
      · exact hoff
      · exact (load_state ..).trans hoff
    refine inLine_of_free (fun g => ?_) (fun c => ?_) (fun p => ?_) hone
    · rw [Part.storeIdle, loadPreset_fields, loadPorts_fields]
      exact hfree g
    · rw [Part.storeIdle, loadPreset_fields, loadPorts_fields]
      exact hnone c
    · rw [hport]
      exact ⟨nofun, nofun⟩
  · exact hd

/-! The store and the requests. -/

theorem answersFor_placed (op : StoreOp) (kind : Byte) (st : Status) (data : List Byte) (hd : d.InLine) :
    (d.answersFor op kind st data).InLine := by
  rcases answersFor_cases d op kind st data with h | ⟨c, f, h⟩
  · rwa [h]
  · rw [h]
    exact hd.modCtl c f

theorem Part.StoreCompletes.placed (hdone : d.StoreCompletes t) (hlayout : d.LayoutSound) (hd : d.InLine) : t.InLine := by
  rcases hdone with rfl | ⟨op, e, -, hcompletes, kind, st, data, rfl⟩
  · exact hd
  · refine answersFor_placed op kind st data ?_
    have hidle : ({ d with storeOp := none } : Part).InLine :=
      hd.of_same (fun _ => rfl) (fun _ => rfl) (fun _ => rfl) fun _ => rfl
    cases hcompletes with
    | presetStore hk => exact hd.of_same (fun _ => rfl) (fun _ => rfl) (fun _ => rfl) fun _ => rfl
    | portsStore hk => exact hd.of_same (fun _ => rfl) (fun _ => rfl) (fun _ => rfl) fun _ => rfl
    | nothing hk => exact hidle
    | @recalled slot pre hk hpre hheld => exact recallApply_placed (hlayout.2.2.1 slot pre hpre) ⟨hidle, fun g => (hlayout.1 g).1⟩

theorem Part.CarriesOut.placed {k : ReqKind} (h : Part.CarriesOut c k d t) (hd : d.InLine) : t.InLine := by
  cases h with
  | nothing => exact hd
  | attach _ mode pol => exact attach_placed mode pol hd
  | detach => exact (controllerPortReset_placed hd).modCtl c _
  | noticeMask _ ks => exact hd.modCtl c _
  | groupAdd _ g p hp => exact groupAdd_placed hd hp
  | groupRemove _ g p hp => exact groupRemove_placed hd hp
  | groupSet _ g hs => exact groupSet_placed _ hd
  | groupDisband _ g => exact groupDisband_placed hd
  | hold _ hnone hone => exact beginHold_placed hd
  | release _ g => exact endHold_placed hd
  | portSet _ p hs => exact portSet_placed _ hd
  | portClear _ hout => exact portClear_placed hout hd
  | setOwner _ p owner => exact setOwner_placed owner hd
  | consoleSet _ cls gs =>
    refine hd.of_same (fun _ => rfl) (fun _ => rfl) (fun k => ?_) fun _ => rfl
    refine (congrArg ConsoleRec.involvement (modConsole_console d c k _)).trans ?_
    split
    · next hk => rw [hk]
    · rfl
  | talkRequest _ em hformed hinv => exact talkRequest_placed em hformed hinv hd
  | talkStart _ hinv hst => exact talkStart_placed hst hd
  | talkEnd _ hinv hst => exact talkEnd_placed hinv hst hd
  | leaveList _ hinv => exact leaveList_placed hinv hd
  | lapseGrant _ hinv hst => exact lapseGrant_placed _ hst hd
  | clearFloor _ g => exact clearFloor_placed _ _ hd

theorem inLine_keptByTakes : Part.KeptByTakes Part.InLine where
  take c _ hd := hd.modCtl c _
  respond c _ _ _ _ _ hd := hd.modCtl c _
  renewed c g _ hd := renewed_placed hd
  carriesOut h _ _ hd := h.placed hd
  starts c tag d e kind time _ h hd := by
    have hsame : (∀ g, e.group g = d.group g) ∧ (∀ g, e.floor g = d.floor g) ∧ (∀ r, e.console r = d.console r) ∧
        ∀ p, e.port p = d.port p := by
      cases h <;> exact ⟨fun _ => rfl, fun _ => rfl, fun _ => rfl, fun _ => rfl⟩
    obtain ⟨hgroup, hfloor, hconsole, hport⟩ := hsame
    exact hd.of_same hfloor (fun g => congrArg GroupRec.members (hgroup g)) (fun r => congrArg ConsoleRec.involvement (hconsole r)) hport

/-! Every command. -/

theorem effect_placed (i : Instr) (d : Part) (hlayout : d.LayoutSound) (hports : d.PortsSound) (hd : d.InLine) :
    (Instr.effect i d).InLine := by
  have hlink {t : Part} {c : CtlNo} (h : d.LinkActs c t) : t.InLine := by
    obtain ⟨f, -, rfl⟩ := h
    exact hd.modCtl c f
  have hstore {t : Part} (h : d.StoreCompletes t) : t.InLine := h.placed hlayout hd
  cases i with
  | deviceReset => exact deviceReset_placed d
  | startUpLoadCompletion => exact loadDone_placed hlayout hports hd
  | portResetAsserted c => exact controllerPortReset_placed (hd.modCtl c _)
  | portResetReleased c => exact hd.modCtl c _
  | directionByte c part => exact hlink (directionByte_link c d part)
  | frameCompletion c bytes => exact hlink (frameCompletion_link c d bytes)
  | linkCycleEnd c => exact hd.modCtl c _
  | removal c => exact hlink (removal_link c d)
  | unknownKind c => exact inLine_keptByTakes.unknownKind c hd
  | presetStoreCompletion => exact hstore (presetStoreDone_completes d)
  | portsStoreCompletion => exact hstore (portsStoreDone_completes d)
  | presetEraseCompletion => exact hstore (presetEraseDone_completes d)
  | presetReadCompletion => exact hstore (presetReadDone_completes d)
  | presetRecallCompletion => exact hstore (presetRecallDone_completes d)
  | emergencyStatusAsserted p => exact emergencyAsserted_placed hd
  | emergencyStatusReleased p => exact emergencyReleased_placed hd
  | linkLoss p => exact linkLoss_placed hd
  | linkReturn p => exact linkReturn_placed hd
  | restartTimerExpiry p => exact restartTimerExpiry_placed hd
  | restartPulseEnd p => exact restartPulseEnd_placed hd
  | guardEnd p =>
    obtain ⟨hrecords, -⟩ := (portsSound_iff d).1 hports
    exact guardEnd_placed (hrecords p).1 hd
  | qualifiedCarrierYes p => exact carrierYes_placed hd
  | qualifiedCarrierNo p => exact carrierNo_placed hd
  | levelBlockEnd => exact levelBlockEnd_placed hd
  | tdmFrame rx mics => exact tdmFrame_placed rx mics hd
  | transmitLimitExpiry p => exact transmitLimitExpiry_placed hd
  | carrierLimitExpiry p => exact carrierLimitExpiry_placed hd
  | cooldownExpiry p => exact cooldownExpiry_placed hd
  | hangTimerExpiry g => exact hangExpiry_placed hd
  | grantWindowExpiry g => exact windowExpiry_placed hd
  | preemptTimerExpiry g => exact preemptExpiry_placed hd
  | dissolveTimerExpiry g => exact dissolveExpiry_placed hd
  | holdTimerExpiry g => exact holdExpiry_placed hd
  | _ => exact inLine_keptByTakes.serve _ _ hd

/-! The two invariants. -/

theorem Part.Placed.floorsSound (hd : d.InLine) : d.FloorsSound :=
  ⟨fun g => ⟨(hd.group g).1, (hd.group g).2.empty⟩, fun c g => ⟨(hd.group g).2.holds c, (hd.group g).2.queued c⟩⟩

theorem Part.Placed.portsFollow (hd : d.InLine) : d.PortsFollow := by
  have hreturn (p : PortNo) (hloose : d.groupOf p = none) : d.stateOnReturn p = .idle := by
    unfold Part.stateOnReturn
    rw [hloose]
  refine ⟨fun p => ⟨fun hsource => ?_, ?_⟩, fun g p hh => ?_, fun g p hw => ?_, fun p hkeyed => ?_, fun p hidle => ?_,
    fun g => (hd.group g).2.nodup⟩
  · obtain ⟨g, -, htalk, hholder⟩ := hd.talker hsource
    exact ⟨g, htalk, hholder⟩
  · rintro ⟨g, hboth⟩
    exact ((hd.group g).2.fits p ((hd.group g).2.holder p hboth.2).1).source.2 hboth
  · obtain ⟨hmem, -⟩ := (hd.group g).2.holder p hh
    exact ⟨hmem, ((hd.group g).2.fits p hmem).parked hh⟩
  · obtain ⟨hmem, -, hplace⟩ := hd.waits hw
    exact ⟨hmem, hplace⟩
  · cases hgroup : d.groupOf p with
    | none => exact absurd hkeyed (hd.loose p (not_mem_of_groupOf hgroup)).1
    | some g =>
      have hp := mem_of_groupOf hgroup
      obtain ⟨hbusy, hholder⟩ := ((hd.group g).2.fits p hp).keyed hkeyed
      rw [hd.stateOnReturn hp hholder, if_neg hbusy]
  · cases hgroup : d.groupOf p with
    | none => exact hreturn p hgroup
    | some g =>
      unfold Part.stateOnReturn
      rw [hgroup]
      exact if_pos ((hd.group g).2.idle p (mem_of_groupOf hgroup) not_false hidle)

theorem inLine_of_sound (hlayout : d.LayoutSound) (hfloors : d.FloorsSound) (hports : d.PortsFollow) : d.InLine := by
  obtain ⟨hfloor, hconsole⟩ := hfloors
  obtain ⟨hsource, hholder, hwaiter, hkeyed, hidle, hnodup⟩ := hports
  have hone := hlayout.2.1
  have hof {g : GroupNo} {p : PortNo} (hp : p ∈ (d.group g).members) : d.groupOf p = some g := by
    cases hgroup : d.groupOf p with
    | none => exact absurd hp (not_mem_of_groupOf hgroup g)
    | some k => rw [hone k g p (mem_of_groupOf hgroup) hp]
  refine ⟨fun g => ⟨(hfloor g).1, (hfloor g).2, fun c => (hconsole c g).1, fun c => (hconsole c g).2, fun p hp => ⟨(hholder g p hp).1, id⟩,
    fun p hp => ⟨(hwaiter g p hp).1, id⟩, fun p hp => ?_, fun p hp _ hi => ?_, hnodup g⟩, fun p hp => ⟨fun hk => ?_, fun hs => ?_⟩, hone⟩
  · refine ⟨⟨fun hs => ?_, fun hboth => (hsource p).2 ⟨g, hboth⟩⟩, fun hh => (hholder g p hh).2, fun hw => (hwaiter g p hw).2, fun hk => ?_⟩
    · obtain ⟨k, htalk, hh⟩ := (hsource p).1 hs
      rw [hone g k p hp (hholder k p hh).1]
      exact ⟨htalk, hh⟩
    · have hreturn := hkeyed p hk
      unfold Part.stateOnReturn at hreturn
      rw [hof hp] at hreturn
      dsimp only at hreturn
      split at hreturn
      · exact nomatch hreturn
      · next hnot => exact not_or.1 hnot
  · have hreturn := hidle p hi
    unfold Part.stateOnReturn at hreturn
    rw [hof hp] at hreturn
    dsimp only at hreturn
    split at hreturn
    · assumption
    · exact nomatch hreturn
  · have hreturn := hkeyed p hk
    unfold Part.stateOnReturn at hreturn
    split at hreturn
    · exact nomatch hreturn
    · next g hgroup => exact hp g (mem_of_groupOf hgroup)
  · obtain ⟨g, -, hh⟩ := (hsource p).1 hs
    exact hp g (hholder g p hh).1

/-- A step keeps all in line, together with the layout and the port records. -/
theorem step_inLine {s s' : State} (hlayout : s.part.LayoutSound) (hports : s.part.PortsSound) (hfloors : s.part.FloorsSound)
    (hfollow : s.part.PortsFollow) (hstep : step s = .next s') : s'.part.InLine := by
  have hd : s.part.LayoutSound ∧ s.part.PortsSound ∧ s.part.InLine := ⟨hlayout, hports, inLine_of_sound hlayout hfloors hfollow⟩
  have hs' := step_keeps (P := fun d => d.LayoutSound ∧ d.PortsSound ∧ d.InLine)
    (fun i d ⟨hl, hp, hd⟩ => ⟨effect_layoutSound i d hl, effect_portsSound i d hp, effect_placed i d hl hp hd⟩) hd hstep
  exact hs'.2.2

/-- Settles O58: floors, consoles and radio ports are kept in line together, group by group. -/
theorem floorsKept : Obligations.FloorsKept := fun _ _ _ hlayout hports hfloors _ hfollow hstep =>
  (step_inLine hlayout hports hfloors hfollow hstep).floorsSound

/-- Settles O60, from the same joint invariant as O58. -/
theorem portsFollowKept : Obligations.PortsFollowKept := fun _ _ _ hlayout hports hfloors _ hfollow hstep =>
  (step_inLine hlayout hports hfloors hfollow hstep).portsFollow

end steps

end Sys2Proof.Machine
end
